-- ==== Sys2Proof/Word.lean ====
section
/-! DEFINITION. The value types of the hardware: the bit vectors, the rational domain and the closed enumerations of
00_scope.md R7, R10, R11 and 30_encoding.md R70 to R75. No arithmetic of the machine is here. -/

namespace Sys2Proof

/-- An 8-bit value: the shift register, a threshold, a command byte (00_scope.md R6, 30_encoding.md R77). -/
abbrev Byte := BitVec 8

/-- An unsigned value of `COUNT_BITS` = 32 bits: a step count or a period in nanoseconds (00_scope.md R7). -/
abbrev Count := BitVec 32

/-- A timestamp of `TIME_BITS` = 64 bits, signed, in nanoseconds (00_scope.md R7, 20_memory.md R52). -/
abbrev Timestamp := BitVec 64

/-- The set Q of 00_scope.md R11: exact rationals, the domain of angles, speeds, resolutions and residuals. -/
abbrev Q := Rat

/-- The motor identifiers (00_scope.md R7); their codes are 30_encoding.md R74. -/
inductive Motor where
  | spark
  | kysan
  deriving DecidableEq, Repr, Inhabited

/-- The directions; their codes are 30_encoding.md R73. -/
inductive Dir where
  | cw
  | ccw
  deriving DecidableEq, Repr, Inhabited

/-- The two values of `debouncedState` (10_state.md R22); their bits are 30_encoding.md R70. -/
inductive Level where
  | pressed
  | released
  deriving DecidableEq, Repr, Inhabited

/-- The result of a SAMPLE, `Option<Event>` of the document (40_debounce.md R100); the codes are 30_encoding.md R72. -/
inductive Event where
  | noEvent
  | pressed
  | released
  | stillPressed
  deriving DecidableEq, Repr, Inhabited

/-- The error result of an SMC operation (10_state.md R32); the codes are 30_encoding.md R75. -/
inductive ErrCode where
  | ok
  | invalidArgument
  deriving DecidableEq, Repr, Inhabited

/-- Which half of the current pulse is being waited out (10_state.md R30). -/
inductive Phase where
  | high
  | low
  deriving DecidableEq, Repr, Inhabited

/-- The three output lines of a motor (10_state.md R31). -/
inductive Line where
  | en
  | dir
  | step
  deriving DecidableEq, Repr, Inhabited

/-- The command ports: one per DBE unit, one for the SMC, one for the BRT (30_encoding.md R77). -/
inductive Port where
  | dbe (k : Nat)
  | smc
  | brt
  deriving DecidableEq, Repr, Inhabited

/-- One value for each of the two motors (10_state.md R26, R31). -/
structure PerMotor (α : Type) where
  spark : α
  kysan : α
  deriving DecidableEq, Repr

end Sys2Proof
end

