-- ==== Sys2Proof/Config.lean ====
section
/-! DEFINITION. What is fixed for one hardware (00_scope.md R6, R7) and the free values. The parameters that the spec
leaves OPEN and the values that it leaves to the environment are `opaque`: they have no body, so no proof can rest on one. -/

namespace Sys2Proof.Config

/-- The parameters of the Debounce Engine that a unit's rules take as arguments (00_scope.md R6, 93 U10, U11). A state
carries them as data that no step changes (assumption 2). -/
structure Build where
  /-- `PRESS_THRESHOLD`. -/
  pressThreshold : Byte
  /-- `RELEASE_THRESHOLD`. -/
  releaseThreshold : Byte
  /-- `HOLD_INTERVAL`, in samples; the spec's range is `>= 1`. -/
  holdInterval : Nat
  deriving DecidableEq, Repr

/-- `PRESS_THRESHOLD` of this hardware, the document's literal (00_scope.md R6; 90_conflicts.md C1; assumption 16). -/
def pressThreshold : Byte := 0x3F

/-- `RELEASE_THRESHOLD` of this hardware (00_scope.md R6). -/
def releaseThreshold : Byte := 0xFC

/-- `SR_RESET` (00_scope.md R6). -/
def srReset : Byte := 0xFF

/-- `HOLD_INTERVAL` less one: OPEN, so it has no body (00_scope.md R6; assumption 2). -/
opaque holdIntervalLessOne : Nat

/-- `HOLD_ENABLE` of DBE unit 0: OPEN (00_scope.md R6; assumption 2). -/
opaque holdEnableFirst : Bool

/-- `HOLD_ENABLE` of each further DBE unit; the length is `N_INPUTS` less one: OPEN (00_scope.md R6; assumption 2). -/
opaque holdEnableMore : List Bool

/-- The build of this hardware: the document's thresholds and the open interval. -/
def build : Build :=
  { pressThreshold := pressThreshold, releaseThreshold := releaseThreshold, holdInterval := holdIntervalLessOne + 1 }

/-- `HOLD_ENABLE` of every DBE unit of this hardware; there is at least one unit. -/
def holdEnables : List Bool := holdEnableFirst :: holdEnableMore

/-- The value of draw `n` on the `ev` output of DBE unit `k` when no SAMPLE has just completed there (93 U12; assumption 3). -/
opaque freeEvent : Nat → Nat → Event

/-- The value of draw `n` on the `err` output when no SMC operation has just ended (93 U12; assumption 3). -/
opaque freeErr : Nat → ErrCode

/-- The value of draw `n` on the `stepCount` port when none was produced (93 U12; assumption 3). -/
opaque freeStepCount : Nat → Count

/-- The value of draw `n` on the `period` port when none was produced (93 U12; assumption 3). -/
opaque freePeriod : Nat → Count

/-- By how many nanoseconds the clock has advanced at draw `n`, when the environment has scripted no answer
(20_memory.md R52; 93 U15; assumption 7). -/
opaque freeAdvance : Nat → Nat

end Sys2Proof.Config
end

