-- ==== Sys2Proof/Syntax.lean ====
section
/-! DEFINITION. The five operations, one constructor per row of opcode_table.json (30_encoding.md R78). The operands that
do not fit in the command byte (angle, speed, percent) stand at ports and are no part of the command (R79). -/

namespace Sys2Proof

inductive Instr where
  /-- `SAMPLE r`: one raw sample bit, `true` for a high line (40_debounce.md R100). -/
  | sample (r : Bool)
  /-- `CSTEPS m, d`, with `angle` at its port (41_stepper_compute.md R121). -/
  | csteps (m : Motor) (d : Dir)
  /-- `CPERIOD m`, with `speed` at its port (41_stepper_compute.md R125). -/
  | cperiod (m : Motor)
  /-- `MOVE m, d`, with `speed` and `angle` at their ports (42_stepper_move.md R140). -/
  | move (m : Motor) (d : Dir)
  /-- `SETLVL`, with `percent` at its port (43_brightness.md R160). -/
  | setlvl
  deriving DecidableEq, Repr

end Sys2Proof
end

