-- ==== Sys2Proof/WellFormed.lean ====
section
/-! DEFINITION. Well-formedness: which block owns an operation (30_encoding.md R77, R81) and which builds the spec allows
(00_scope.md R6, 93 U10). The fields of a command are typed, so the port is the one check left on a decoded command. -/

namespace Sys2Proof

/-- "Each block has its own command port and accepts only its own operations" (30_encoding.md R77). -/
def Port.owns : Port → Instr → Bool
  | .dbe _, .sample _ => true
  | .smc, .csteps _ _ => true
  | .smc, .cperiod _ => true
  | .smc, .move _ _ => true
  | .brt, .setlvl => true
  | _, _ => false

/-- A command is well formed at a port when the block of that port owns its operation (30_encoding.md R81). -/
def Instr.wellFormedAt (p : Port) (i : Instr) : Bool := p.owns i

/-- `HOLD_INTERVAL >= 1` (00_scope.md R6). -/
def Config.Build.wellFormed (b : Config.Build) : Bool := decide (1 ≤ b.holdInterval)

end Sys2Proof
end

