-- ==== Sys2Proof/Decode.lean ====
section
/-! DEFINITION. Decoding a command byte, total on all 256 bytes and on every port, rejecting by name (30_encoding.md R77,
R78, R81, R84), and the encoder written from the same fields. The command is always one byte (R85). -/

namespace Sys2Proof

/-- Why a command byte is not well formed (30_encoding.md R81, R84). -/
inductive DecodeReject where
  /-- The `op` field is 0b101, 0b110 or 0b111 (R78). -/
  | reservedOp
  /-- The `zero` field is not 0b000 (R77). -/
  | zeroField
  /-- Bit 1 is set where it must be 0: SAMPLE, SETLVL (R77). -/
  | motorBit
  /-- Bit 0 is set where it must be 0: CPERIOD, SETLVL (R77). -/
  | lowBit
  /-- The operation does not belong to the block of the port (R84). -/
  | wrongPort
  deriving DecidableEq, Repr

/-- `Spark = 0`, `Kysan = 1` (30_encoding.md R74). -/
def Motor.ofBit (b : Bool) : Motor := if b then .kysan else .spark

/-- `Spark = 0`, `Kysan = 1` (30_encoding.md R74). -/
def Motor.bit : Motor → Bool
  | .spark => false
  | .kysan => true

/-- `CW = 0`, `CCW = 1` (30_encoding.md R73). -/
def Dir.ofBit (b : Bool) : Dir := if b then .ccw else .cw

/-- `CW = 0`, `CCW = 1` (30_encoding.md R73). -/
def Dir.bit : Dir → Bool
  | .cw => false
  | .ccw => true

/-- `cmd[7:5]` (30_encoding.md R77). -/
def opField (c : Byte) : BitVec 3 := c.extractLsb' 5 3

/-- `cmd[4:2]` (30_encoding.md R77). -/
def zeroField (c : Byte) : BitVec 3 := c.extractLsb' 2 3

/-- `cmd[1]` (30_encoding.md R77). -/
def mField (c : Byte) : Bool := c.getLsbD 1

/-- `cmd[0]` (30_encoding.md R77). -/
def dField (c : Byte) : Bool := c.getLsbD 0

/-- The byte's meaning by its `op`, with the fields that must be 0 for that `op` (30_encoding.md R84). -/
def decodeOp (c : Byte) : Except DecodeReject Instr :=
  match (opField c).toNat with
  | 0 => if mField c then .error .motorBit else .ok (.sample (dField c))
  | 1 => .ok (.csteps (Motor.ofBit (mField c)) (Dir.ofBit (dField c)))
  | 2 => if dField c then .error .lowBit else .ok (.cperiod (Motor.ofBit (mField c)))
  | 3 => .ok (.move (Motor.ofBit (mField c)) (Dir.ofBit (dField c)))
  | 4 => if mField c then .error .motorBit else if dField c then .error .lowBit else .ok .setlvl
  | _ => .error .reservedOp

/-- Decoding, without the port (30_encoding.md R84). -/
def decode (c : Byte) : Except DecodeReject Instr :=
  if zeroField c = 0 then decodeOp c else .error .zeroField

/-- Decoding at the port that received the byte (30_encoding.md R84). -/
def decodeAt (p : Port) (c : Byte) : Except DecodeReject Instr :=
  match decode c with
  | .ok i => if i.wellFormedAt p then .ok i else .error .wrongPort
  | .error e => .error e

/-- The operation select code (30_encoding.md R78). -/
def opCode : Instr → BitVec 3
  | .sample _ => 0b000
  | .csteps _ _ => 0b001
  | .cperiod _ => 0b010
  | .move _ _ => 0b011
  | .setlvl => 0b100

/-- `cmd[1]` of an operation (30_encoding.md R77). -/
def mBit : Instr → Bool
  | .sample _ => false
  | .csteps m _ => m.bit
  | .cperiod m => m.bit
  | .move m _ => m.bit
  | .setlvl => false

/-- `cmd[0]` of an operation (30_encoding.md R77). -/
def dBit : Instr → Bool
  | .sample r => r
  | .csteps _ d => d.bit
  | .cperiod _ => false
  | .move _ d => d.bit
  | .setlvl => false

/-- The command byte of an operation: `op`, 0b000, `m`, `d` (30_encoding.md R77). -/
def encode (i : Instr) : Byte :=
  opCode i ++ (0#3 ++ (BitVec.ofBool (mBit i) ++ BitVec.ofBool (dBit i)))

/-- The port of the block that an `op` code belongs to; a DBE byte goes to unit 0, a reserved one to the SMC. Used only
to place a byte of the opcode table before the machine. -/
def homePort (c : Byte) : Port :=
  match (opField c).toNat with
  | 0 => .dbe 0
  | 4 => .brt
  | _ => .smc

/-- The operation that the decoder reads from the opcode table's word `w`. -/
def decodeTableWord (_nbits w : Nat) : Option Instr :=
  (decode (BitVec.ofNat 8 w)).toOption

end Sys2Proof
end

