-- ==== Sys2Proof/Machine/State.lean ====
section
/-! DEFINITION. The state of the machine as plain data, the reasons for which a step can stop, and the state after reset
(10_state.md R20 to R37). The hardware's state and the environment's inputs are separate groups of fields. -/

namespace Sys2Proof.Machine

/-- One Debounce Engine unit (10_state.md R21 to R25, R32). The output `state` is `debouncedState` itself. -/
structure Dbe where
  /-- `HOLD_ENABLE` of this unit: how it was built, changed by no step (00_scope.md R6; assumption 2). -/
  holdEnable : Bool
  /-- The last eight raw samples, the newest at bit 7 (R21). -/
  shiftRegister : Byte
  /-- The asserted logical state (R22). -/
  debouncedState : Level
  /-- The hold counter, reduced modulo `HOLD_INTERVAL` (R24); stays 0 in a unit without the variant (assumption 20). -/
  holdCounter : Nat
  /-- The result of the SAMPLE that has just completed, else a free value (R32; 93 U12; assumption 3). -/
  ev : Event
  deriving DecidableEq, Repr

/-- One entry of the motor offset file (10_state.md R26). -/
structure MotorOffset where
  /-- `residualOffsetDegrees`. -/
  residual : Q
  /-- `previousDirection`. -/
  prevDir : Dir
  deriving DecidableEq, Repr

/-- The logical levels of one motor's lines (10_state.md R31, 30_encoding.md R76). -/
structure Lines where
  en : Bool
  dir : Bool
  step : Bool
  deriving DecidableEq, Repr

/-- Which action of 42_stepper_move.md R141 the move in progress takes next (DEDUCED; assumption 9). -/
inductive SeqPoint where
  /-- Action (2), `EN[m]` to 1. -/
  | enable
  /-- Action (3), `DIR[m]` to `d`. -/
  | direction
  /-- Action (4a), the clock read that gives `t0`. -/
  | start
  /-- Action (4b), `STEP[m]` to 1. -/
  | raise
  /-- Actions (4c) and (4e), one clock read of a wait; `seq.phase` says which wait it is. -/
  | wait
  /-- Action (4d), `STEP[m]` to 0. -/
  | lower
  /-- Action (5), `EN[m]` to 0. -/
  | disable
  deriving DecidableEq, Repr

/-- The sequencer record (10_state.md R30), with the model's own fields `dir` and `point` (assumption 9). -/
structure Seq where
  busy : Bool
  motor : Motor
  dir : Dir
  remaining : Count
  period : Count
  phase : Phase
  point : SeqPoint
  t0 : Timestamp
  deriving DecidableEq, Repr

/-- The result outputs of the SMC (10_state.md R32, 30_encoding.md R79; assumption 3). -/
structure Results where
  err : ErrCode
  stepCount : Count
  period : Count
  deriving DecidableEq, Repr

/-- The state of the PWM sink (10_state.md R35). -/
structure Pwm where
  enabled : Bool
  duty : Q
  deriving DecidableEq, Repr

/-- The operand ports (30_encoding.md R79). -/
structure Operands where
  angle : Q
  speed : Q
  percent : Nat
  deriving DecidableEq, Repr

/-- One thing the environment does (70_reset_and_hazards.md R217; assumption 1). -/
inductive EnvMove where
  /-- It applies the reset input (R200, R201). -/
  | rst
  /-- It drives the `angle` port. -/
  | driveAngle (q : Q)
  /-- It drives the `speed` port. -/
  | driveSpeed (q : Q)
  /-- It drives the `percent` port. -/
  | drivePercent (n : Nat)
  /-- It presents a command byte at a command port. -/
  | present (p : Port) (c : Byte)
  /-- It takes a held command away from the SMC's port. -/
  | withdraw
  /-- It lets the SMC take the next action of its move; `now` is the clock's answer if that action reads the clock. -/
  | smcTurn (now : Timestamp)
  deriving DecidableEq, Repr

/-- The whole machine. Up to `pwm` it is the state that 10_state.md gives the hardware, beside its build; from `operands`
on it is the environment's inputs, held as data (10_state.md R34; assumptions 1, 6, 7, 10). -/
structure State where
  /-- The parameters of the build (00_scope.md R6; assumption 2). -/
  build : Config.Build
  /-- The Debounce Engine units, one per input (10_state.md R20). -/
  dbe : List Dbe
  /-- The motor offset file `off[m]` (R26). -/
  off : PerMotor MotorOffset
  /-- The sequencer record (R30). -/
  seq : Seq
  /-- `EN[m]`, `DIR[m]`, `STEP[m]` (R31). -/
  lines : PerMotor Lines
  /-- `err`, `stepCount`, `period` (R32; 30_encoding.md R79). -/
  results : Results
  /-- `pwm.enabled`, `pwm.duty` (R35). -/
  pwm : Pwm
  /-- The values at the operand ports. -/
  operands : Operands
  /-- A well-formed command waiting at the SMC's port (42_stepper_move.md R149; assumption 10). -/
  held : Option Byte
  /-- The DBE unit whose port received the command that is being taken. -/
  target : Nat
  /-- The last value that `TimeNow` returned (20_memory.md R52). -/
  lastTime : Timestamp
  /-- What the environment does next, the first move first. -/
  script : List EnvMove
  /-- The number of the next free draw (assumption 3). -/
  draws : Nat
  deriving DecidableEq, Repr

/-- The reasons for which the machine stops at something that does not exist. `InvalidArgument` is none of them: taking
it is a next state (60_exceptions.md R171). -/
inductive Fault where
  /-- Raised by SAMPLE when the command was received at a DBE port that no unit has: the index space is
  `0 .. N_INPUTS - 1` (10_state.md R34). Safe: nothing is claimed of such a command (assumption 14). -/
  | noSuchInput (k : Nat)
  deriving DecidableEq, Repr

/-- The reasons for which the model gives no meaning. All but the first are the spec's own refusals. -/
inductive Refusal where
  /-- Raised by exec for an operation without a meaning: no arm does so. Safe. -/
  | notModelled (mnemonic : String)
  /-- Raised by CSTEPS and MOVE: `max(0, n) >= 2^32` (41_stepper_compute.md R129, 60_exceptions.md R173). Safe. -/
  | stepCountOverflow
  /-- Raised by CPERIOD and MOVE: the period is at least `2^32` (41_stepper_compute.md R129, 60_exceptions.md R173). Safe. -/
  | periodOverflow
  /-- Raised by SETLVL: `percent > 100` (43_brightness.md R161, 60_exceptions.md R173). Safe. -/
  | percentOutOfRange
  /-- Raised by step: the byte presented at a port is not well formed there, whether or not the SMC is busy
  (30_encoding.md R81, 60_exceptions.md R173). Safe. -/
  | reservedCommand (why : DecodeReject)
  /-- Raised by a clock read of a move: the answer breaks 20_memory.md R52 (a) or (b) (93 U8). Safe (assumption 7). -/
  | clockOutsidePremises
  deriving DecidableEq, Repr

/-- A DBE unit after reset (10_state.md R36). -/
def Dbe.afterReset (holdEnable : Bool) : Dbe :=
  { holdEnable := holdEnable, shiftRegister := Config.srReset, debouncedState := .released, holdCounter := 0, ev := .noEvent }

/-- An entry of the offset file after reset (10_state.md R36). -/
def MotorOffset.afterReset : MotorOffset := { residual := 0, prevDir := .cw }

/-- The lines of a motor after reset (10_state.md R36). -/
def Lines.afterReset : Lines := { en := false, dir := false, step := false }

/-- The sequencer after reset: idle (10_state.md R36); the fields nothing reads while idle are DESIGN CHOICE values
(93 U2 "A model may hold them at 0"; assumptions 4, 9). -/
def Seq.afterReset : Seq :=
  { busy := false, motor := .spark, dir := .cw, remaining := 0, period := 0, phase := .low, point := .enable, t0 := 0 }

/-- The machine right after power-on reset (10_state.md R36, 70_reset_and_hazards.md R200), for a build and the
`HOLD_ENABLE` of each unit. The environment has done nothing yet; its fields are DESIGN CHOICE values (assumptions 5, 6, 7). -/
def State.resetWith (b : Config.Build) (holdEnables : List Bool) : State :=
  { build := b
    dbe := holdEnables.map Dbe.afterReset
    off := { spark := MotorOffset.afterReset, kysan := MotorOffset.afterReset }
    seq := Seq.afterReset
    lines := { spark := Lines.afterReset, kysan := Lines.afterReset }
    results := { err := .ok, stepCount := 0, period := 0 }
    pwm := { enabled := false, duty := 0 }
    operands := { angle := 0, speed := 0, percent := 0 }
    held := none
    target := 0
    lastTime := 0
    script := []
    draws := 0 }

/-- The machine right after reset, for the build of this hardware. -/
def State.reset : State := State.resetWith Config.build Config.holdEnables

end Sys2Proof.Machine
end

