-- ==== Sys2Proof/Machine/Ops.lean ====
section
/-! DEFINITION. The named operations over the state: the motor-indexed files, the access primitives of 20_memory.md
R51 to R54, the end of an SMC operation, taking `InvalidArgument` (60_exceptions.md R171), holding a command, and reset. -/

namespace Sys2Proof

/-- The value for motor `m`. -/
def PerMotor.get {α : Type} (p : PerMotor α) : Motor → α
  | .spark => p.spark
  | .kysan => p.kysan

/-- The file with the value for motor `m` replaced; the other motor's value is kept. -/
def PerMotor.set {α : Type} (p : PerMotor α) (m : Motor) (x : α) : PerMotor α :=
  match m with
  | .spark => { p with spark := x }
  | .kysan => { p with kysan := x }

end Sys2Proof

namespace Sys2Proof.Machine

/-- The level of one line. -/
def Lines.get (ls : Lines) : Line → Bool
  | .en => ls.en
  | .dir => ls.dir
  | .step => ls.step

/-- The lines with one of them at a new level. -/
def Lines.put (ls : Lines) (l : Line) (v : Bool) : Lines :=
  match l with
  | .en => { ls with en := v }
  | .dir => { ls with dir := v }
  | .step => { ls with step := v }

/-- `PinWrite` of line `l` of motor `m` (20_memory.md R51): the line holds `v` until the next write to it. -/
def State.pinWrite (s : State) (m : Motor) (l : Line) (v : Bool) : State :=
  { s with lines := s.lines.set m ((s.lines.get m).put l v) }

/-- `PwmEnable` (20_memory.md R53). -/
def State.pwmEnable (s : State) (b : Bool) : State := { s with pwm := { s.pwm with enabled := b } }

/-- `PwmSetDuty` (20_memory.md R54). -/
def State.pwmSetDuty (s : State) (f : Q) : State := { s with pwm := { s.pwm with duty := f } }

/-- The premises of 20_memory.md R52 (a) and (b) on one answer of the clock: not below the last one, and not negative as
a signed 64-bit number. -/
def timeAllowed (last now : Timestamp) : Bool := decide (0 ≤ now.toInt ∧ last.toInt ≤ now.toInt)

/-- `TimeNow` with the answer `now` (20_memory.md R52); an answer outside the premises is none (93 U8; assumption 7). -/
def State.timeNow (s : State) (now : Timestamp) : Option State :=
  if timeAllowed s.lastTime now then some { s with lastTime := now } else none

/-- The clock's answer when the environment has scripted none: the last one plus a free advance, at most `2^63 - 1`
(20_memory.md R52; assumption 7). -/
def State.freeTime (s : State) : Timestamp :=
  BitVec.ofNat 64 (min (s.lastTime.toNat + Config.freeAdvance s.draws) (2 ^ 63 - 1))

/-- One DBE unit replaced, the others kept. -/
def State.putDbe (s : State) (k : Nat) (d : Dbe) : State := { s with dbe := s.dbe.set k d }

/-- `off[m]` replaced, the other motor's entry kept. -/
def State.putOffset (s : State) (m : Motor) (o : MotorOffset) : State := { s with off := s.off.set m o }

/-- The sequencer record replaced. -/
def State.putSeq (s : State) (q : Seq) : State := { s with seq := q }

/-- An SMC operation presents its error result `e` and the results it produced; a result port that it does not produce
carries a free value (10_state.md R32; 93 U12; assumption 3). -/
def State.report (s : State) (e : ErrCode) (stepCount period : Option Count) : State :=
  { s with
    results :=
      { err := e
        stepCount := stepCount.getD (Config.freeStepCount s.draws)
        period := period.getD (Config.freePeriod s.draws) }
    draws := s.draws + 1 }

/-- Taking `InvalidArgument` (60_exceptions.md R171, R177): the operation ends with `err = 0b01`, and nothing else has
happened; its result ports carry no meaningful value. -/
def State.raiseInvalidArgument (s : State) : State := s.report .invalidArgument none none

/-- A command presented while the SMC is busy stands at its port until `busy` is 0 (42_stepper_move.md R149; 93 U13;
assumption 10). -/
def State.hold (s : State) (c : Byte) : State := { s with held := some c }

/-- The port that received the command, where it is a DBE port. -/
def State.aim (s : State) (p : Port) : State :=
  match p with
  | .dbe k => { s with target := k }
  | _ => s

/-- A unit whose event has been taken: `ev` carries the free value `e`, but never `StillPressed` in a unit without the
hold variant (93 U12; 30_encoding.md R72; assumption 3). -/
def Dbe.expire (d : Dbe) (e : Event) : Dbe :=
  { d with ev := if e == .stillPressed && !d.holdEnable then .noEvent else e }

/-- What is left of the results when another step begins: every result output carries a free value (10_state.md R32; 93
U12; assumption 3). -/
def State.expireResults (s : State) : State :=
  { s with
    dbe := s.dbe.mapIdx (fun k d => d.expire (Config.freeEvent s.draws k))
    results :=
      { err := Config.freeErr s.draws
        stepCount := Config.freeStepCount s.draws
        period := Config.freePeriod s.draws }
    draws := s.draws + 1 }

/-- Reset of a running machine (70_reset_and_hazards.md R200, R201): every field of the hardware's state gets its reset
value, a move in progress is abandoned, the build stays and so do the environment's inputs (10_state.md R34; assumption
11). The `stepCount` and `period` ports, which R200 does not name, keep what they carry. -/
def State.applyReset (s : State) : State :=
  { s with
    dbe := s.dbe.map (fun d => Dbe.afterReset d.holdEnable)
    off := { spark := MotorOffset.afterReset, kysan := MotorOffset.afterReset }
    seq := Seq.afterReset
    lines := { spark := Lines.afterReset, kysan := Lines.afterReset }
    results := { s.results with err := .ok }
    pwm := { enabled := false, duty := 0 } }

end Sys2Proof.Machine
end

