-- ==== Sys2Proof/Machine/Operands.lean ====
section
/-! DEFINITION. The numbers that the SMC computes from the values at its operand ports, in exact arithmetic (00_scope.md
R7, R11, R12; 41_stepper_compute.md R120 to R130), and the fixed-point realisation of the same (R124). -/

namespace Sys2Proof.Machine

/-- `STEP_RES[m]`, degrees per step (00_scope.md R7). -/
def stepRes : Motor → Q
  | .spark => 1 / 16
  | .kysan => 9 / 80

/-- `NS_PER_S` (00_scope.md R7). -/
def nsPerS : Q := 1000000000

/-- `2^COUNT_BITS` (00_scope.md R7). -/
def countLimit : Nat := 2 ^ 32

/-- The integer nearest to `x`, a tie going away from zero (00_scope.md R12). -/
def roundNearest (x : Q) : Int :=
  if 0 ≤ x then (x + 1 / 2).floor else -(-x + 1 / 2).floor

/-- The residual that CSTEPS uses: negated once when the direction differs from the last one (R121 step 1, 10_state.md R28). -/
def carriedResidual (d : Dir) (o : MotorOffset) : Q :=
  if d = o.prevDir then o.residual else -o.residual

/-- `rawSteps` (R121 steps 2 and 3). -/
def rawSteps (m : Motor) (d : Dir) (angle : Q) (o : MotorOffset) : Q :=
  (angle - carriedResidual d o) / stepRes m

/-- The rounded step count before the clamp; it may be negative (R121 step 4, R122). -/
def roundedSteps (m : Motor) (d : Dir) (angle : Q) (o : MotorOffset) : Int :=
  roundNearest (rawSteps m d angle o)

/-- `off[m]` after CSTEPS: the leftover fractional step, from the count before the clamp, and the direction (R121 steps
5 and 6, R122). -/
def nextOffset (m : Motor) (d : Dir) (angle : Q) (o : MotorOffset) : MotorOffset :=
  { residual := ((roundedSteps m d angle o : Q) - rawSteps m d angle o) * stepRes m, prevDir := d }

/-- A natural number as a `COUNT_BITS`-bit result, if it fits (R129: never wrapped, never saturated). -/
def toCount (n : Nat) : Option Count :=
  if n < countLimit then some (BitVec.ofNat 32 n) else none

/-- `stepCount`: the rounded count clamped at 0 (R121 step 7), if it fits (R129). -/
def stepCount (m : Motor) (d : Dir) (angle : Q) (o : MotorOffset) : Option Count :=
  toCount (roundedSteps m d angle o).toNat

/-- The period before it is fitted into 32 bits (R125). -/
def roundedPeriod (m : Motor) (speed : Q) : Int :=
  roundNearest (nsPerS / speed * stepRes m)

/-- `stepPeriodNanoseconds`, if it fits (R125, R129). -/
def stepPeriod (m : Motor) (speed : Q) : Option Count :=
  toCount (roundedPeriod m speed).toNat

/-- The duty cycle of a brightness level (43_brightness.md R160, R161). -/
def dutyOf (percent : Nat) : Q := (percent : Q) / 100

/-- Integer division by a positive number that rounds half away from zero: the fixed-point form of the rounding
(41_stepper_compute.md R124). `e` is the effective angle and `r` the resolution, both in units. -/
def fixedSteps (r e : Int) : Int :=
  if 0 ≤ e then (2 * e + r) / (2 * r) else -((-2 * e + r) / (2 * r))

/-- The fixed-point form of CSTEPS on whole numbers of units: resolution `r`, stored residual `o`, whether the direction
reverses, angle `a`; the answer is the rounded count and the new residual (41_stepper_compute.md R124). -/
def fixedCsteps (r o : Int) (reversal : Bool) (a : Int) : Int × Int :=
  let e := a - (if reversal then -o else o)
  let n := fixedSteps r e
  (n, n * r - e)

end Sys2Proof.Machine
end

