-- ==== Sys2Proof/Machine/Flags.lean ====
section
/-! DEFINITION. The status outputs and their codes (10_state.md R32, 30_encoding.md R70 to R76), and the tests of the
Debounce Engine that decide its state and its event (40_debounce.md R100 to R104). -/

namespace Sys2Proof.Machine

/-- `state` as a bit: 0 pressed, 1 released (30_encoding.md R70). -/
def levelBit : Level → BitVec 1
  | .pressed => 0
  | .released => 1

/-- The event code on `ev[1:0]` (30_encoding.md R72). -/
def eventCode : Event → BitVec 2
  | .noEvent => 0b00
  | .pressed => 0b01
  | .released => 0b10
  | .stillPressed => 0b11

/-- The error code on `err[1:0]` (30_encoding.md R75). -/
def errCode : ErrCode → BitVec 2
  | .ok => 0b00
  | .invalidArgument => 0b01

/-- The output `state` of a DBE unit (10_state.md R32). -/
def Dbe.stateOut (d : Dbe) : BitVec 1 := levelBit d.debouncedState

/-- The output `ev` of a DBE unit (10_state.md R32). -/
def Dbe.evOut (d : Dbe) : BitVec 2 := eventCode d.ev

/-- The output `busy` (10_state.md R32). -/
def State.busyOut (s : State) : BitVec 1 := BitVec.ofBool s.seq.busy

/-- The output `err` (10_state.md R32). -/
def State.errOut (s : State) : BitVec 2 := errCode s.results.err

/-- `sr'`: the register shifted right by one, the new sample in bit 7 (40_debounce.md R100 (a), R101). -/
def shiftIn (sr : Byte) (r : Bool) : Byte := (sr >>> 1) ||| (BitVec.ofBool r).setWidth 8 <<< 7

/-- `sat`: "fully saturated pressed" (10_state.md R25). -/
def saturated (sr : Byte) : Bool := sr == 0x00

/-- `st'` from `sr'` and the state before: one test per state, one-sided (40_debounce.md R100 (b) and (c), R114). -/
def nextLevel (b : Config.Build) (sr : Byte) : Level → Level
  | .released => if sr ≤ b.pressThreshold then .pressed else .released
  | .pressed => if b.releaseThreshold ≤ sr then .released else .pressed

/-- The event of clauses (b) and (c): it reports the change of state (40_debounce.md R100, R111). -/
def edgeEvent : Level → Level → Event
  | .released, .pressed => .pressed
  | .pressed, .released => .released
  | .released, .released => .noEvent
  | .pressed, .pressed => .noEvent

/-- `hc'` in a unit with the hold variant: it counts only while the state was pressed and stays pressed (40_debounce.md R103). -/
def nextHold (b : Config.Build) (before after : Level) (hc : Nat) : Nat :=
  match before, after with
  | .pressed, .pressed => (hc + 1) % b.holdInterval
  | _, _ => 0

/-- Whether clause (e) gives `StillPressed` (40_debounce.md R104). -/
def holdFires (e : Event) (after : Level) (sr : Byte) (hc : Nat) : Bool :=
  e == .noEvent && after == .pressed && saturated sr && hc == 0

end Sys2Proof.Machine
end

