-- ==== Sys2Proof/Machine/Brightness.lean ====
section
/-! DEFINITION. The ancillary Brightness Controller, operation SETLVL (43_brightness.md). -/

namespace Sys2Proof.Machine

/-- SETLVL (43_brightness.md R160): the two writes of the PWM sink in the order of R161; above 100 it has no meaning. -/
def execSetlvl (s : State) : Host.Outcome State Fault Refusal :=
  if 100 < s.operands.percent then .refused .percentOutOfRange
  else if s.operands.percent = 0 then .next ((s.pwmSetDuty 0).pwmEnable false)
  else .next ((s.pwmEnable true).pwmSetDuty (dutyOf s.operands.percent))

end Sys2Proof.Machine
end

