-- ==== Sys2Proof/Machine/Debounce.lean ====
section
/-! DEFINITION. The Debounce Engine, operation SAMPLE (40_debounce.md). -/

namespace Sys2Proof.Machine

/-- One SAMPLE of a Debounce Engine unit: clauses (a) to (e) of 40_debounce.md R100, total. -/
def Dbe.sample (b : Config.Build) (r : Bool) (d : Dbe) : Dbe :=
  let sr := shiftIn d.shiftRegister r
  let st := nextLevel b sr d.debouncedState
  let e := edgeEvent d.debouncedState st
  let hc := if d.holdEnable then nextHold b d.debouncedState st d.holdCounter else d.holdCounter
  { d with
    shiftRegister := sr
    debouncedState := st
    holdCounter := hc
    ev := if d.holdEnable && holdFires e st sr hc then .stillPressed else e }

/-- SAMPLE at the unit whose port received it (40_debounce.md R100; 10_state.md R20). -/
def execSample (r : Bool) (s : State) : Host.Outcome State Fault Refusal :=
  match s.dbe[s.target]? with
  | some d => .next (s.putDbe s.target (d.sample s.build r))
  | none => .fault (.noSuchInput s.target)

end Sys2Proof.Machine
end

