-- ==== Sys2Proof/Machine/StepperCompute.lean ====
section
/-! DEFINITION. The computing operations of the Stepper Motion Controller, CSTEPS and CPERIOD (41_stepper_compute.md). -/

namespace Sys2Proof.Machine

/-- CSTEPS (41_stepper_compute.md R121). While a move runs the command is not taken (42_stepper_move.md R149); the
overflow refusal comes before every write (R129). -/
def execCsteps (m : Motor) (d : Dir) (s : State) : Host.Outcome State Fault Refusal :=
  if s.seq.busy then .next (s.hold (encode (.csteps m d)))
  else
    match stepCount m d s.operands.angle (s.off.get m) with
    | none => .refused .stepCountOverflow
    | some c =>
      .next ((s.putOffset m (nextOffset m d s.operands.angle (s.off.get m))).report .ok (some c) none)

/-- CPERIOD (41_stepper_compute.md R125): `InvalidArgument` exactly when `speed <= 0` (60_exceptions.md R172). While a move
runs the command is not taken (42_stepper_move.md R149). -/
def execCperiod (m : Motor) (s : State) : Host.Outcome State Fault Refusal :=
  if s.seq.busy then .next (s.hold (encode (.cperiod m)))
  else if s.operands.speed ≤ 0 then .next s.raiseInvalidArgument
  else
    match stepPeriod m s.operands.speed with
    | none => .refused .periodOverflow
    | some p => .next (s.report .ok none (some p))

end Sys2Proof.Machine
end

