-- ==== Sys2Proof/Machine/StepperMove.lean ====
section
/-! DEFINITION. The pulse sequencer of the Stepper Motion Controller (42_stepper_move.md): MOVE is the acceptance, action
(1) of R141; each further action of R141 is one step of the sequencer. -/

namespace Sys2Proof.Machine

/-- The sequencer as the acceptance of a MOVE loads it (42_stepper_move.md R140). `t0` and `phase` are written before
anything reads them (70_reset_and_hazards.md R202). -/
def Seq.load (q : Seq) (m : Motor) (d : Dir) (p c : Count) : Seq :=
  { q with busy := true, motor := m, dir := d, remaining := c, period := p, point := .enable }

/-- The state after the acceptance of a MOVE with period `p` and count `c` (42_stepper_move.md R140, R141 (1)). No result
is presented: the operation has not ended (10_state.md R32; assumption 18). -/
def State.accepted (s : State) (m : Motor) (d : Dir) (p c : Count) : State :=
  (s.putOffset m (nextOffset m d s.operands.angle (s.off.get m))).putSeq (s.seq.load m d p c)

/-- MOVE, its acceptance (42_stepper_move.md R140, R141 (1)): the tests in the order of R152, then `off[m]` as CSTEPS
leaves it and the sequencer loaded. While a move runs the command is not taken (R149). -/
def execMove (m : Motor) (d : Dir) (s : State) : Host.Outcome State Fault Refusal :=
  if s.seq.busy then .next (s.hold (encode (.move m d)))
  else if s.operands.speed ≤ 0 then .next s.raiseInvalidArgument
  else
    match stepPeriod m s.operands.speed with
    | none => .refused .periodOverflow
    | some p =>
      match stepCount m d s.operands.angle (s.off.get m) with
      | none => .refused .stepCountOverflow
      | some c => .next (s.accepted m d p c)

/-- The head of the loop `while seq.remaining > 0` (42_stepper_move.md R140; R147 for no step at all). -/
def loopPoint (remaining : Count) : SeqPoint := if remaining = 0 then .disable else .start

/-- The bound of the wait in progress: the half period, rounded down, while the line is high, then the whole period
(42_stepper_move.md R141 (4c) and (4e), R144). -/
def Seq.bound (q : Seq) : Nat :=
  match q.phase with
  | .high => q.period.toNat / 2
  | .low => q.period.toNat

/-- Whether the bound is reached at clock value `now`: the full signed difference from `t0` (42_stepper_move.md R143). -/
def Seq.elapsed (q : Seq) (now : Timestamp) : Bool := decide ((q.bound : Int) ≤ now.toInt - q.t0.toInt)

/-- The sequencer after a wait whose bound is reached: after the high phase the line is lowered, after the low phase the
step is over (42_stepper_move.md R140). -/
def Seq.afterWait (q : Seq) : Seq :=
  match q.phase with
  | .high => { q with point := .lower }
  | .low => { q with remaining := q.remaining - 1, point := loopPoint (q.remaining - 1) }

/-- The effect of an action that reads the clock, the answer being `now`. -/
def State.withClock (s : State) (now : Timestamp) (k : State → State) : Host.Outcome State Fault Refusal :=
  match s.timeNow now with
  | some t => .next (k t)
  | none => .refused .clockOutsidePremises

/-- The next action of the move in progress (42_stepper_move.md R141 (2) to (5), R142). -/
def State.moveAction (s : State) (now : Timestamp) : Host.Outcome State Fault Refusal :=
  let q := s.seq
  match q.point with
  | .enable => .next ((s.pinWrite q.motor .en true).putSeq { q with point := .direction })
  | .direction => .next ((s.pinWrite q.motor .dir q.dir.bit).putSeq { q with point := loopPoint q.remaining })
  | .start => s.withClock now fun t => t.putSeq { q with t0 := now, point := .raise }
  | .raise => .next ((s.pinWrite q.motor .step true).putSeq { q with phase := .high, point := .wait })
  | .wait => s.withClock now fun t => if q.elapsed now then t.putSeq q.afterWait else t
  | .lower => .next ((s.pinWrite q.motor .step false).putSeq { q with phase := .low, point := .wait })
  | .disable => .next (((s.pinWrite q.motor .en false).putSeq { q with busy := false }).report .ok none none)

/-- A turn of the SMC: the next action of its move, or nothing when it is idle (60_exceptions.md R189). -/
def State.smcTurn (s : State) (now : Timestamp) : Host.Outcome State Fault Refusal :=
  if s.seq.busy then s.moveAction now else .next s

end Sys2Proof.Machine
end

