-- ==== Sys2Proof/Machine/Dispatch.lean ====
section
/-! DEFINITION. The one match from operations to their meanings. -/

namespace Sys2Proof.Machine

def exec (i : Instr) (s : State) : Host.Outcome State Fault Refusal :=
  match i with
  | .sample r => Sys2Proof.Machine.execSample r s
  | .csteps m d => Sys2Proof.Machine.execCsteps m d s
  | .cperiod m => Sys2Proof.Machine.execCperiod m s
  | .move m d => Sys2Proof.Machine.execMove m d s
  | .setlvl => Sys2Proof.Machine.execSetlvl s

end Sys2Proof.Machine
end

