-- ==== Sys2Proof/Machine/Turn.lean ====
section
/-! DEFINITION. What one move of the environment does to the machine: a command is received at a port, decoded and run,
or held; the reset input, the operand ports, a turn of the SMC (70_reset_and_hazards.md R217; assumptions 1, 10, 11). -/

namespace Sys2Proof.Machine

/-- A command byte received at a port: a well-formed one is run, or held by the meaning itself while the SMC is busy
(42_stepper_move.md R149), any other is refused at once (30_encoding.md R81, R84; 70_reset_and_hazards.md R217). -/
def State.receive (s : State) (p : Port) (c : Byte) : Host.Outcome State Fault Refusal :=
  match decodeAt p c with
  | .ok i => exec i (s.aim p)
  | .error e => .refused (.reservedCommand e)

/-- One move of the environment. -/
def State.environment (s : State) : EnvMove → Host.Outcome State Fault Refusal
  | .rst => .next s.applyReset
  | .driveAngle q => .next { s with operands := { s.operands with angle := q } }
  | .driveSpeed q => .next { s with operands := { s.operands with speed := q } }
  | .drivePercent n => .next { s with operands := { s.operands with percent := n } }
  | .present p c => s.receive p c
  | .withdraw => .next { s with held := none }
  | .smcTurn now => s.smcTurn now

/-- Whether the environment now applies the reset input, which it may do at any time (70_reset_and_hazards.md R201, R217). -/
def State.resetApplied (s : State) : Bool :=
  match s.script with
  | .rst :: _ => true
  | _ => false

/-- The command that waits at the SMC's port, once the SMC is not busy and reset is not applied (42_stepper_move.md R149;
70_reset_and_hazards.md R201). -/
def State.ready (s : State) : Option Byte := if s.seq.busy || s.resetApplied then none else s.held

/-- One step from a state whose last results have expired: reset, if applied, comes first; a waiting command is taken as
soon as the SMC is idle; else the environment moves; when it has no further move, the SMC goes on by itself (assumptions
1, 7, 10). -/
def State.turn (s : State) : Host.Outcome State Fault Refusal :=
  match s.ready with
  | some c => State.receive { s with held := none } .smc c
  | none =>
    match s.script with
    | [] => State.smcTurn { s with draws := s.draws + 1 } s.freeTime
    | mv :: rest => State.environment { s with script := rest } mv

/-- Before the machine, as the next thing it does, the command of the opcode table's word `w` (assumption 1). -/
def State.withCommand (s : State) (c : Byte) : State :=
  { s with
    seq := { s.seq with busy := s.seq.busy && homePort c != .smc }
    held := none
    script := .present (homePort c) c :: s.script }

end Sys2Proof.Machine
end

