-- ==== Sys2Proof/Machine/Step.lean ====
section
/-! DEFINITION. One step of the machine: the results of the last step expire (10_state.md R32), then one agent moves. -/

namespace Sys2Proof.Machine

/-- One step. -/
def step (s : State) : Host.Outcome State Fault Refusal := s.expireResults.turn

/-- The state with the opcode table's word `w` before it as the next command. -/
def State.withFetchWord (s : State) (_nbits w : Nat) : State := s.withCommand (BitVec.ofNat 8 w)

end Sys2Proof.Machine
end

