-- ==== Sys2Proof/Safety.lean ====
section
/-! DEFINITION. What the statements speak of beside the machine: sequences of samples and of CSTEPS, the clock answers of
a move, and the invariants of the state (10_state.md R23, R24, R27, R31, R35; 42_stepper_move.md R141, R146). -/

namespace Sys2Proof

/-- The other motor. -/
def Motor.other : Motor → Motor
  | .spark => .kysan
  | .kysan => .spark

/-- The events that report a change of state. -/
def Event.isEdge (e : Event) : Bool := e == .pressed || e == .released

end Sys2Proof

namespace Sys2Proof.Machine

/-- `k` steps, stopping at the first fault or refusal. -/
def stepN : Nat → State → Host.Outcome State Fault Refusal
  | 0, s => .next s
  | k + 1, s =>
    match step s with
    | .next t => stepN k t
    | .fault r => .fault r
    | .refused r => .refused r

/-- The unit after the samples `rs`, the first one first (the pseudo-operation SAMPLES, 30_encoding.md R83). -/
def Dbe.afterSamples (b : Config.Build) (d : Dbe) : List Bool → Dbe
  | [] => d
  | r :: rs => (d.sample b r).afterSamples b rs

/-- The events of the samples `rs`, in order (30_encoding.md R83). -/
def Dbe.events (b : Config.Build) (d : Dbe) : List Bool → List Event
  | [] => []
  | r :: rs => (d.sample b r).ev :: (d.sample b r).events b rs

/-- The offset entry and the rounded counts of a sequence of CSTEPS of one motor in one direction, by their angles. -/
def cstepsRun (m : Motor) (d : Dir) (o : MotorOffset) : List Q → MotorOffset × List Int
  | [] => (o, [])
  | a :: as =>
    let rest := cstepsRun m d (nextOffset m d a o) as
    (rest.1, roundedSteps m d a o :: rest.2)

/-- `n` is the integer nearest to `x`, the one farther from zero at a tie (00_scope.md R12). -/
abbrev IsNearest (n : Int) (x : Q) : Prop := |(n : Q) - x| ≤ 1 / 2 ∧ (|(n : Q) - x| = 1 / 2 → |x| ≤ |(n : Q)|)

/-- The clock answers of one pulse in which each wait ends at its first read: of (4a), (4c) and (4e) of R141. -/
structure PulseTimes where
  t0 : Timestamp
  high : Timestamp
  low : Timestamp
  deriving DecidableEq, Repr

/-- The turns of the SMC for one pulse. The answers of the two turns that read no clock do not matter. -/
def PulseTimes.turns (p : PulseTimes) : List EnvMove :=
  [.smcTurn p.t0, .smcTurn 0, .smcTurn p.high, .smcTurn 0, .smcTurn p.low]

/-- The answers meet 20_memory.md R52 after `last`, and the bounds of a period (42_stepper_move.md R143, R144). -/
def timesMeet (period : Count) (last : Timestamp) : List PulseTimes → Prop
  | [] => True
  | p :: ps =>
    timeAllowed last p.t0 = true ∧ timeAllowed p.t0 p.high = true ∧ timeAllowed p.high p.low = true ∧
    (period.toNat / 2 : Nat) ≤ p.high.toInt - p.t0.toInt ∧ (period.toNat : Int) ≤ p.low.toInt - p.t0.toInt ∧
    timesMeet period p.low ps

/-- The threshold order of this hardware; the bits 7 keep the two tests apart (40_debounce.md R109). -/
abbrev thresholdsOrdered (b : Config.Build) : Prop := b.pressThreshold < 0x80 ∧ 0x80 ≤ b.releaseThreshold

/-- The hold counter is below the interval, and 0 in a unit without the variant and in the released state (10_state.md
R24, 40_debounce.md R103). -/
abbrev Dbe.counterOk (b : Config.Build) (d : Dbe) : Prop :=
  d.holdCounter < b.holdInterval ∧ (d.holdEnable = false → d.holdCounter = 0) ∧
  (d.debouncedState = .released → d.holdCounter = 0)

/-- State and register agree: released only above the press threshold, pressed only below the release threshold
(10_state.md R23). -/
abbrev Dbe.stateOk (b : Config.Build) (d : Dbe) : Prop :=
  (d.debouncedState = .released → b.pressThreshold < d.shiftRegister) ∧
  (d.debouncedState = .pressed → d.shiftRegister < b.releaseThreshold)

/-- Only a unit with the hold variant reports `StillPressed` (30_encoding.md R72). -/
abbrev Dbe.evOk (d : Dbe) : Prop := d.ev = .stillPressed → d.holdEnable = true

/-- The build is one the spec allows and every unit keeps its invariants. -/
abbrev State.unitsOk (s : State) : Prop :=
  1 ≤ s.build.holdInterval ∧ thresholdsOrdered s.build ∧ s.dbe ≠ [] ∧
  ∀ d ∈ s.dbe, d.counterOk s.build ∧ d.stateOk s.build ∧ d.evOk

/-- The bound on the residuals, half a step (10_state.md R27). -/
abbrev State.residualsOk (s : State) : Prop :=
  ∀ m : Motor, |(s.off.get m).residual| ≤ stepRes m / 2

/-- The PWM sink: the duty is a fraction, and 0 while the channel is off (10_state.md R35, 43_brightness.md R160). -/
abbrev State.pwmOk (s : State) : Prop :=
  0 ≤ s.pwm.duty ∧ s.pwm.duty ≤ 1 ∧ (s.pwm.enabled = false → s.pwm.duty = 0)

/-- Enable and step of motor `m` are low. -/
abbrev State.quiet (s : State) (m : Motor) : Prop := (s.lines.get m).en = false ∧ (s.lines.get m).step = false

/-- The lines of the moving motor at each point of the move (42_stepper_move.md R141), and the pulses still to come. -/
def movingOk (q : Seq) (l : Lines) : Prop :=
  match q.point with
  | .enable => l.en = false ∧ l.step = false
  | .direction => l.en = true ∧ l.step = false
  | .start => l.en = true ∧ l.step = false ∧ l.dir = q.dir.bit ∧ q.remaining ≠ 0
  | .raise => l.en = true ∧ l.step = false ∧ l.dir = q.dir.bit ∧ q.remaining ≠ 0
  | .wait => l.en = true ∧ l.step = (q.phase == .high) ∧ l.dir = q.dir.bit ∧ q.remaining ≠ 0
  | .lower => l.en = true ∧ l.step = true ∧ l.dir = q.dir.bit ∧ q.remaining ≠ 0
  | .disable => l.en = true ∧ l.step = false ∧ l.dir = q.dir.bit ∧ q.remaining = 0

/-- No motor is enabled and no step line is high but for the motor of the move in progress, whose lines are as the move's
next action finds them; the direction of the move is the one CSTEPS stored (42_stepper_move.md R140, R146, R149). -/
def State.linesOk (s : State) : Prop :=
  if s.seq.busy then
    s.quiet s.seq.motor.other ∧ movingOk s.seq (s.lines.get s.seq.motor) ∧ (s.off.get s.seq.motor).prevDir = s.seq.dir
  else s.quiet .spark ∧ s.quiet .kysan

/-- The clock has returned no value outside its range, and a step of a move started at a value it has returned
(20_memory.md R52, 42_stepper_move.md R143). -/
def State.clockOk (s : State) : Prop :=
  0 ≤ s.lastTime.toInt ∧
  (s.seq.busy = true → s.seq.point = .raise ∨ s.seq.point = .wait ∨ s.seq.point = .lower →
    0 ≤ s.seq.t0.toInt ∧ s.seq.t0.toInt ≤ s.lastTime.toInt)

/-- The state seen by the surrounding system and by later operations, without the results, which no step remembers
(70_reset_and_hazards.md R216): all that the hardware keeps. -/
abbrev State.sameKept (s t : State) : Prop :=
  t.build = s.build ∧ t.dbe = s.dbe ∧ t.off = s.off ∧ t.seq = s.seq ∧ t.lines = s.lines ∧ t.pwm = s.pwm

/-- The unit is as before but for its event result, which is not remembered (70_reset_and_hazards.md R216). -/
abbrev Dbe.sameButEvent (d e : Dbe) : Prop :=
  e.holdEnable = d.holdEnable ∧ e.shiftRegister = d.shiftRegister ∧ e.debouncedState = d.debouncedState ∧
  e.holdCounter = d.holdCounter

/-- All that the hardware keeps from one step to the next is as before: only results differ (70_reset_and_hazards.md R216). -/
abbrev State.sameButResults (s t : State) : Prop :=
  t.build = s.build ∧ t.off = s.off ∧ t.seq = s.seq ∧ t.lines = s.lines ∧ t.pwm = s.pwm ∧ t.dbe.length = s.dbe.length ∧
  ∀ (k : Nat) (d : Dbe), s.dbe[k]? = some d → ∃ e, t.dbe[k]? = some e ∧ d.sameButEvent e

/-- A command that waits at the SMC's port is well formed there (70_reset_and_hazards.md R217; assumption 10). -/
def State.heldOk (s : State) : Prop := ∀ c, s.held = some c → ∃ i, decodeAt .smc c = .ok i

/-- The environment's inputs are as before. -/
abbrev State.sameInputs (s t : State) : Prop :=
  t.operands = s.operands ∧ t.held = s.held ∧ t.target = s.target ∧ t.lastTime = s.lastTime ∧ t.script = s.script

end Sys2Proof.Machine
end

