-- ==== Sys2Proof/Certificates/Slice0/Obligations.lean ====
section
/-! DEFINITION. The statements for the provers, from the numbered rules of spec/. Where one rests on a decision that the
spec marks as its own, or on an entry of the assumption log, its docstring says so. -/

open Sys2Proof Sys2Proof.Machine

/-! ## Encoding -/

/-- A byte decodes at a port to an operation exactly when the operation belongs to the port's block and the byte is the
operation's: 13 bytes have a meaning, every other is rejected, and no bit of an encoding is dropped. The encoding is the
spec's own ("The whole format is the spec's own", 30_encoding.md section 3, D16). -/
def Obligations.DecodeInvertsEncodeAtEveryPort : Prop :=
  ∀ (p : Port) (c : Byte) (i : Instr), decodeAt p c = .ok i ↔ (i.wellFormedAt p = true ∧ c = encode i)

/-- One byte of each operation, written out from the patterns of 30_encoding.md section 3 (D16), and three bytes that the
same section reserves. -/
def Obligations.TableBytesDecodeAsListed : Prop :=
  decodeAt (.dbe 0) 0b00000001 = .ok (.sample true) ∧
  decodeAt .smc 0b00100010 = .ok (.csteps .kysan .cw) ∧
  decodeAt .smc 0b01000010 = .ok (.cperiod .kysan) ∧
  decodeAt .smc 0b01100001 = .ok (.move .spark .ccw) ∧
  decodeAt .brt 0b10000000 = .ok .setlvl ∧
  decodeAt .smc 0b01000001 = .error .lowBit ∧
  decodeAt .smc 0b00000000 = .error .wrongPort ∧
  decodeAt .smc 0b10100000 = .error .reservedOp

/-! ## The step -/

/-- A command presented at a port, when no earlier command waits, is run as the operation its byte decodes to. What the
step adds around exec is the model's: the results of the step before expire, the move leaves the script, and the unit of
the port is selected (assumptions 1 and 3). -/
def Obligations.StepRunsTheDecodedCommand : Prop :=
  ∀ (s : State) (p : Port) (c : Byte) (i : Instr) (rest : List EnvMove),
    s.ready = none → s.script = .present p c :: rest → decodeAt p c = .ok i →
    step s = exec i (({ s.expireResults with script := rest } : State).aim p)

/-- A command that waits at the SMC's port is taken by the first step in which the SMC is not busy, before the environment
moves except to apply reset, with the operand values then at the ports ("a command presented meanwhile is not taken until
`busy = 0`, and is then taken with the operand values present at that moment", 42_stepper_move.md section 2, D19;
assumption 10). -/
def Obligations.HeldCommandTakenWhenIdle : Prop :=
  ∀ (s : State) (c : Byte) (i : Instr),
    s.seq.busy = false → s.held = some c → decodeAt .smc c = .ok i → s.script.head? ≠ some .rst →
    step s = exec i { s.expireResults with held := none }

/-- A byte that is not well formed at its port ends the run with the refusal `ReservedCommand`: where it is presented, at
any port, whether or not the SMC is busy; and where it waits at the port of an SMC that is not busy, in a state that no
run reaches (30_encoding.md section 5, D16: "a model refuses it"; 70_reset_and_hazards.md section 3; that a presented
command is taken at once, or waits, is assumption 1 and 10). -/
def Obligations.ReservedByteIsRefused : Prop :=
  ∀ (s : State) (p : Port) (c : Byte), (∀ i : Instr, i.wellFormedAt p = true → c ≠ encode i) →
    (s.ready = none → (∃ rest, s.script = .present p c :: rest) → ∃ why, step s = .refused (.reservedCommand why)) ∧
    (p = .smc → s.ready = some c → ∃ why, step s = .refused (.reservedCommand why))

/-- Every step keeps the port of the SMC free of bytes that are not well formed: what waits there is CSTEPS, CPERIOD or
MOVE (70_reset_and_hazards.md section 3; assumption 10). -/
def Obligations.StepKeepsHeldCommandWellFormed : Prop :=
  ∀ s t : State, s.heldOk → step s = .next t → t.heldOk

/-- While a move runs the SMC takes no command: each of its three operations is held, and nothing else changes
("it accepts no CSTEPS, CPERIOD or MOVE for either motor", 42_stepper_move.md section 2, D19; assumption 10). -/
def Obligations.BusySmcHoldsItsCommands : Prop :=
  ∀ (s : State) (m : Motor) (d : Dir), s.seq.busy = true →
    exec (.csteps m d) s = .next { s with held := some (encode (.csteps m d)) } ∧
    exec (.cperiod m) s = .next { s with held := some (encode (.cperiod m)) } ∧
    exec (.move m d) s = .next { s with held := some (encode (.move m d)) }

/-- With nothing waiting, nothing scripted and no move running, a step changes nothing but the results, which expire
(assumptions 1 and 3). -/
def Obligations.IdleMachineKeepsItsState : Prop :=
  ∀ s : State, s.seq.busy = false → s.held = none → s.script = [] →
    ∃ t, step s = .next t ∧ s.sameButResults t ∧ s.sameInputs t

/-- The environment drives an operand port, or takes a held command away, at any time at which the step is its own, also
while a move runs: the one input changes, and nothing that the hardware keeps (30_encoding.md section 4;
70_reset_and_hazards.md section 3; the list of moves and the held command are the model's, assumptions 1 and 10). -/
def Obligations.EnvironmentMovesChangeOneInput : Prop :=
  ∀ (s : State) (rest : List EnvMove), s.ready = none →
    (∀ q, s.script = .driveAngle q :: rest → ∃ t, step s = .next t ∧ s.sameButResults t ∧
      s.sameInputs { t with operands := s.operands, script := s.script } ∧ t.script = rest ∧
      t.operands = { s.operands with angle := q }) ∧
    (∀ q, s.script = .driveSpeed q :: rest → ∃ t, step s = .next t ∧ s.sameButResults t ∧
      s.sameInputs { t with operands := s.operands, script := s.script } ∧ t.script = rest ∧
      t.operands = { s.operands with speed := q }) ∧
    (∀ n, s.script = .drivePercent n :: rest → ∃ t, step s = .next t ∧ s.sameButResults t ∧
      s.sameInputs { t with operands := s.operands, script := s.script } ∧ t.script = rest ∧
      t.operands = { s.operands with percent := n }) ∧
    (s.script = .withdraw :: rest → ∃ t, step s = .next t ∧ s.sameButResults t ∧
      s.sameInputs { t with held := s.held, script := s.script } ∧ t.script = rest ∧ t.held = none)

/-! ## Outputs -/

/-- The bits on the outputs `state`, `ev`, `busy` and `err` are the listed codes of what they show, and no other
(30_encoding.md sections 1 and 2, D3, D21; 10_state.md section 5). -/
def Obligations.OutputsCarryTheListedCodes : Prop :=
  (∀ d : Dbe, (d.stateOut = 0 ↔ d.debouncedState = .pressed) ∧ (d.stateOut = 1 ↔ d.debouncedState = .released) ∧
    (d.evOut = 0b00 ↔ d.ev = .noEvent) ∧ (d.evOut = 0b01 ↔ d.ev = .pressed) ∧ (d.evOut = 0b10 ↔ d.ev = .released) ∧
    (d.evOut = 0b11 ↔ d.ev = .stillPressed)) ∧
  (∀ s : State, (s.busyOut = 1 ↔ s.seq.busy = true) ∧ (s.busyOut = 0 ↔ s.seq.busy = false) ∧
    (s.errOut = 0b00 ↔ s.results.err = .ok) ∧ (s.errOut = 0b01 ↔ s.results.err = .invalidArgument))

/-- What the outputs show of a SAMPLE: `ev` is 0b01 exactly when `state` falls from 1 to 0, 0b10 exactly when it rises from
0 to 1, and 0b11 only in a unit with the hold variant, whose `state` stays 0 (10_state.md section 5; 30_encoding.md
section 2, D3; 40_debounce.md section 3, derived there). -/
def Obligations.EvOutputShowsTheChangeOfStateOutput : Prop :=
  ∀ (s : State) (d : Dbe) (r : Bool), s.dbe[s.target]? = some d →
    ∃ e : Dbe, exec (.sample r) s = .next { s with dbe := s.dbe.set s.target e } ∧
      (e.evOut = 0b01 ↔ d.stateOut = 1 ∧ e.stateOut = 0) ∧
      (e.evOut = 0b10 ↔ d.stateOut = 0 ∧ e.stateOut = 1) ∧
      (e.evOut = 0b11 → d.holdEnable = true ∧ d.stateOut = 0 ∧ e.stateOut = 0)

/-- What the outputs show of the SMC: an accepted MOVE raises `busy`; CPERIOD and MOVE taken with a speed that is not positive answer 0b01 on `err` with `busy` still 0, CSTEPS and
CPERIOD that complete otherwise 0b00 (10_state.md section 5; 30_encoding.md section 2, D3, D19, D21). -/
def Obligations.SmcOutputsShowItsOperations : Prop :=
  ∀ (s t : State) (m : Motor) (d : Dir), s.busyOut = 0 →
    (s.operands.speed ≤ 0 → exec (.cperiod m) s = .next t ∨ exec (.move m d) s = .next t →
      t.errOut = 0b01 ∧ t.busyOut = 0) ∧
    (0 < s.operands.speed → exec (.move m d) s = .next t → t.busyOut = 1) ∧
    (0 < s.operands.speed → exec (.cperiod m) s = .next t → t.errOut = 0b00 ∧ t.busyOut = 0) ∧
    (exec (.csteps m d) s = .next t → t.errOut = 0b00 ∧ t.busyOut = 0)

/-! ## Reset -/

/-- Every field of the reset state has the value of 10_state.md section 8 and R36, in every unit. The reset values of
`holdCounter`, `busy`, the lines, `ev`, `err` and the PWM sink are the spec's own (10_state.md section 8, "spec's choice
D15" and "D5"). The last clauses are of the build and the environment: 0x3F is the spec's choice D2 (00_scope.md section
4; assumption 16), the interval is open and only its range is fixed (00_scope.md section 4; assumption 2), and that
nothing waits and nothing is scripted is the model's choice (assumption 1). -/
def Obligations.ResetStateHasTheListedValues : Prop :=
  State.reset.dbe ≠ [] ∧
  (∀ d ∈ State.reset.dbe, d.shiftRegister = 0xFF ∧ d.debouncedState = .released ∧ d.holdCounter = 0 ∧ d.ev = .noEvent) ∧
  (∀ m : Motor, (State.reset.off.get m).residual = 0 ∧ (State.reset.off.get m).prevDir = .cw) ∧
  (∀ (m : Motor) (l : Line), (State.reset.lines.get m).get l = false) ∧
  State.reset.seq.busy = false ∧ State.reset.results.err = .ok ∧
  State.reset.pwm.enabled = false ∧ State.reset.pwm.duty = 0 ∧
  State.reset.build.pressThreshold = 0x3F ∧ State.reset.build.releaseThreshold = 0xFC ∧
  1 ≤ State.reset.build.holdInterval ∧ State.reset.held = none ∧ State.reset.script = []

/-- Applied at any time, also during a move and also while a command waits to be taken, reset gives every field of the hardware's state its reset value, keeps the
build, and leaves the environment's inputs; the move is over (70_reset_and_hazards.md section 1, D15; assumption 11). -/
def Obligations.ResetInputRestoresResetValues : Prop :=
  ∀ (s : State) (rest : List EnvMove), s.script = .rst :: rest →
    ∃ t, step s = .next t ∧ t.build = s.build ∧ t.script = rest ∧ t.held = s.held ∧ t.operands = s.operands ∧
      t.lastTime = s.lastTime ∧
      t.dbe.map Dbe.holdEnable = s.dbe.map Dbe.holdEnable ∧
      (∀ d ∈ t.dbe, d.shiftRegister = 0xFF ∧ d.debouncedState = .released ∧ d.holdCounter = 0 ∧ d.ev = .noEvent) ∧
      (∀ m : Motor, (t.off.get m).residual = 0 ∧ (t.off.get m).prevDir = .cw) ∧
      (∀ (m : Motor) (l : Line), (t.lines.get m).get l = false) ∧
      t.seq.busy = false ∧ t.results.err = .ok ∧ t.pwm.enabled = false ∧ t.pwm.duty = 0

/-! ## Debounce Engine -/

/-- 40_debounce.md R101: one SAMPLE shifts the register right with the sample in bit 7; in the released state it compares
the new value unsigned with the press threshold, and presses or not, without the release test; in the pressed state the
press test is not made. -/
def Obligations.SampleInReleasedStateIsThePressTest : Prop :=
  ∀ (s : State) (d : Dbe) (r : Bool), s.dbe[s.target]? = some d →
    ∃ e : Dbe, exec (.sample r) s = .next { s with dbe := s.dbe.set s.target e } ∧
      e.shiftRegister.getLsbD 7 = r ∧ (∀ i ≤ 6, e.shiftRegister.getLsbD i = d.shiftRegister.getLsbD (i + 1)) ∧
      (d.debouncedState = .released →
        (e.shiftRegister.toNat ≤ s.build.pressThreshold.toNat → e.debouncedState = .pressed ∧ e.ev = .pressed) ∧
        (s.build.pressThreshold.toNat < e.shiftRegister.toNat → e.debouncedState = .released ∧ e.ev = .noEvent)) ∧
      (d.debouncedState = .pressed → e.ev ≠ .pressed)

/-- 40_debounce.md R102: in the pressed state only the release test is made, on the value after the shift; a SAMPLE that
does not release reports no edge; and from either state one SAMPLE makes at most one transition and reports it. -/
def Obligations.SampleInPressedStateIsTheReleaseTest : Prop :=
  ∀ (s : State) (d : Dbe) (r : Bool), s.dbe[s.target]? = some d →
    ∃ e : Dbe, exec (.sample r) s = .next { s with dbe := s.dbe.set s.target e } ∧
      e.shiftRegister.toNat = d.shiftRegister.toNat / 2 + (if r then 128 else 0) ∧
      (d.debouncedState = .pressed →
        (s.build.releaseThreshold.toNat ≤ e.shiftRegister.toNat → e.debouncedState = .released ∧ e.ev = .released) ∧
        (e.shiftRegister.toNat < s.build.releaseThreshold.toNat → e.debouncedState = .pressed ∧ e.ev.isEdge = false)) ∧
      (e.ev = .released ↔ d.debouncedState = .pressed ∧ e.debouncedState = .released) ∧
      (e.ev = .pressed ↔ d.debouncedState = .released ∧ e.debouncedState = .pressed)

/-- The hold variant: the counter is 0 when the new state is released or the state changed, else it advances modulo the
interval; `StillPressed` exactly when there is no edge, the state is pressed, the register is 0x00 and the updated counter
is 0; a unit without the variant keeps its counter and never reports it. The spec marks the three points of the counter
and the priority of the edges as its own (40_debounce.md section 1, D5); the counter field of a unit without the variant is
the model's (assumption 20). -/
def Obligations.SampleCountsAndRepeatsWhileHeld : Prop :=
  ∀ (s : State) (d : Dbe) (r : Bool), s.dbe[s.target]? = some d →
    ∃ e : Dbe, exec (.sample r) s = .next { s with dbe := s.dbe.set s.target e } ∧ e.holdEnable = d.holdEnable ∧
      (d.holdEnable = false → e.holdCounter = d.holdCounter ∧ e.ev ≠ .stillPressed) ∧
      (d.holdEnable = true →
        (e.debouncedState = .released ∨ e.debouncedState ≠ d.debouncedState → e.holdCounter = 0) ∧
        (e.debouncedState = .pressed → d.debouncedState = .pressed →
          e.holdCounter = (d.holdCounter + 1) % s.build.holdInterval) ∧
        (e.ev = .stillPressed ↔
          d.debouncedState = .pressed ∧ e.debouncedState = .pressed ∧ e.shiftRegister = 0x00 ∧ e.holdCounter = 0))

/-- SAMPLE changes the unit at whose port it was issued and nothing else: no other unit, nothing of the SMC, no line, no
PWM state, no result of the SMC, none of the environment's inputs (10_state.md section 1 and R20). -/
def Obligations.SampleChangesOnlyItsUnit : Prop :=
  ∀ (s t : State) (r : Bool), exec (.sample r) s = .next t →
    t.build = s.build ∧ t.off = s.off ∧ t.seq = s.seq ∧ t.lines = s.lines ∧ t.results = s.results ∧ t.pwm = s.pwm ∧
      s.sameInputs t ∧ t.draws = s.draws ∧ t.dbe.length = s.dbe.length ∧
      ∀ k : Nat, k ≠ s.target → t.dbe[k]? = s.dbe[k]?

/-- A SAMPLE at a port that no unit has stops with the fault of that name: the index space of the units is
`0 .. N_INPUTS - 1` (10_state.md section 7; assumption 14). -/
def Obligations.SampleWithoutUnitFaults : Prop :=
  ∀ (s : State) (r : Bool), s.dbe.length ≤ s.target → exec (.sample r) s = .fault (.noSuchInput s.target)

/-- The run lengths: for a press threshold `2^k - 1` a released unit presses exactly when the `8 - k` newest samples are
low; for a release threshold `256 - 2^j` a pressed unit releases exactly when the `8 - j` newest samples are high
(40_debounce.md section 2, derived there). -/
def Obligations.ThresholdsAreRunLengths : Prop :=
  ∀ (b : Config.Build) (d : Dbe) (r : Bool) (k j : Nat),
    (k ≤ 8 → b.pressThreshold.toNat = 2 ^ k - 1 → d.debouncedState = .released →
      ((d.sample b r).debouncedState = .pressed ↔
        ∀ i < 8, k ≤ i → (d.sample b r).shiftRegister.getLsbD i = false)) ∧
    (j ≤ 8 → b.releaseThreshold.toNat = 256 - 2 ^ j → d.debouncedState = .pressed →
      ((d.sample b r).debouncedState = .released ↔
        ∀ i < 8, j ≤ i → (d.sample b r).shiftRegister.getLsbD i = true))

/-- After any samples from reset, bit `7 - a` of the register is the sample `a` operations before the newest, and a bit
that no sample has reached is still 1 (40_debounce.md section 3, derived there). -/
def Obligations.RegisterHoldsTheNewestSamples : Prop :=
  ∀ (b : Config.Build) (h : Bool) (rs : List Bool), ∀ a < 8,
    ((Dbe.afterReset h).afterSamples b rs).shiftRegister.getLsbD (7 - a) = (rs.reverse[a]?).getD true

/-- From reset the edges alternate, Pressed first, whatever the samples, the thresholds and the hold variant
(40_debounce.md section 3, derived there). -/
def Obligations.EdgesAlternateFromReset : Prop :=
  ∀ (b : Config.Build) (h : Bool) (rs : List Bool) (n : Nat) (e : Event),
    (((Dbe.afterReset h).events b rs).filter Event.isEdge)[n]? = some e →
      e = if n % 2 = 0 then .pressed else .released

/-- One low sample between high ones never gives an event, with a press threshold up to this hardware's 0x3F: neither at
the glitch nor at any of the high samples after it (40_debounce.md section 3, derived there). -/
def Obligations.IsolatedGlitchGivesNoEvent : Prop :=
  ∀ (b : Config.Build) (d : Dbe) (n : Nat),
    b.pressThreshold ≤ 0x3F → d.debouncedState = .released → d.shiftRegister.getLsbD 7 = true →
    (∀ e ∈ d.events b (false :: List.replicate n true), e = .noEvent) ∧
    (d.afterSamples b (false :: List.replicate n true)).debouncedState = .released

/-- A run of low samples from a released state whose newest sample is high presses on the `k`-th and gives no other edge,
where the press threshold is `2^(8-k) - 1` (this hardware: `k = 2`; the other reading of 90_conflicts.md C1: `k = 6`). A
run of high samples from a pressed state whose newest sample is low releases on the `k`-th and gives no other edge, where
the release threshold is `256 - 2^(8-k)` (this hardware: `k = 6`). (40_debounce.md section 3, derived there.) -/
def Obligations.SteadyInputGivesOneEdge : Prop :=
  ∀ (b : Config.Build) (d : Dbe) (n k : Nat), 1 ≤ k → k ≤ 8 →
    (b.pressThreshold.toNat = 2 ^ (8 - k) - 1 → 0x80 ≤ b.releaseThreshold →
      d.debouncedState = .released → d.shiftRegister.getLsbD 7 = true →
      ∀ (i : Nat) (e : Event), (d.events b (List.replicate n false))[i]? = some e →
        (e = .pressed ↔ i + 1 = k) ∧ e ≠ .released) ∧
    (b.releaseThreshold.toNat = 256 - 2 ^ (8 - k) → b.pressThreshold < 0x80 →
      d.debouncedState = .pressed → d.shiftRegister.getLsbD 7 = false →
      ∀ (i : Nat) (e : Event), (d.events b (List.replicate n true))[i]? = some e →
        (e = .released ↔ i + 1 = k) ∧ e ≠ .pressed)

/-- In a unit with the hold variant, from the operation that pressed and while nothing releases, the `k`-th sample gives
`StillPressed` exactly when the register is then 0x00 and `k` is a multiple of the interval; so a glitch inside the press
moves no repeat off that grid (40_debounce.md section 1, derived there; the counting is the spec's own, D5). -/
def Obligations.RepeatsFallOnTheIntervalGrid : Prop :=
  ∀ (b : Config.Build) (d : Dbe) (rs : List Bool) (r : Bool), 1 ≤ b.holdInterval → d.holdEnable = true →
    d.debouncedState = .pressed → d.holdCounter = 0 → (∀ e ∈ d.events b (rs ++ [r]), e ≠ .released) →
    ((d.afterSamples b (rs ++ [r])).ev = .stillPressed ↔
      (d.afterSamples b (rs ++ [r])).shiftRegister = 0x00 ∧ (rs.length + 1) % b.holdInterval = 0)

/-- A whole-machine rule: the debounced state of a unit changes in no step but one that applies reset, which releases it, or
one that takes a SAMPLE byte at that unit's port, which presses it only with the updated register at or below the press
threshold and releases it only with the updated register at or above the release threshold (10_state.md section 2). -/
def Obligations.OnlySampleOrResetChangesDebouncedState : Prop :=
  ∀ (s t : State) (k : Nat) (d e : Dbe), step s = .next t → s.dbe[k]? = some d → t.dbe[k]? = some e →
    e.debouncedState ≠ d.debouncedState →
    s.ready = none ∧ ∃ rest : List EnvMove,
      (s.script = .rst :: rest ∧ e.debouncedState = .released) ∨
      (∃ r : Bool, s.script = .present (.dbe k) (encode (.sample r)) :: rest ∧
        e.shiftRegister.toNat = d.shiftRegister.toNat / 2 + (if r then 128 else 0) ∧
        (e.debouncedState = .pressed → e.shiftRegister.toNat ≤ s.build.pressThreshold.toNat) ∧
        (e.debouncedState = .released → s.build.releaseThreshold.toNat ≤ e.shiftRegister.toNat))

/-- Every step keeps the invariant of the Debounce Engine, for a build with an interval of at least 1, at least one unit and
the thresholds apart at 0x80 (00_scope.md section 4; 40_debounce.md section 3): counters below the interval, 0 while
released and 0 without the variant; released only above the press threshold, pressed only below the release threshold
(10_state.md section 2; what the counter counts is the spec's own, D5, and its value without the variant the model's,
assumption 20); and `ev` never `StillPressed` in a unit without the variant (R72, 30_encoding.md section 2, D3). That the last
also holds of an `ev` whose result has expired is the limit that the model puts on the free value (assumption 3). -/
def Obligations.StepKeepsUnitInvariant : Prop :=
  ∀ s t : State, s.unitsOk → step s = .next t → t.unitsOk

/-! ## CSTEPS and CPERIOD -/

/-- The rounding of the two operations is to the nearest integer, a tie going away from zero, and no other integer meets
that. The tie rule is the spec's own (00_scope.md section 6, D8). -/
def Obligations.RoundNearestIsTheNearestInteger : Prop :=
  ∀ (x : Q) (n : Int), IsNearest n x ↔ n = roundNearest x

/-- CSTEPS on an idle SMC, every operand: it completes with the seven steps of the document when the count fits, and is
refused when it does not (41_stepper_compute.md section 2; the width is the spec's own, D10; the residual from the count
before the clamp, D9; the free value of the `period` port is the model's, assumption 3). -/
def Obligations.CstepsCountsAndCarriesTheResidual : Prop :=
  (stepRes .spark = 1 / 16 ∧ stepRes .kysan = 9 / 80) ∧
  ∀ (s : State) (m : Motor) (d : Dir) (o raw : Q) (n : Int), s.seq.busy = false →
    o = (if d ≠ (s.off.get m).prevDir then -(s.off.get m).residual else (s.off.get m).residual) →
    raw = (s.operands.angle - o) / stepRes m →
    IsNearest n raw →
    (max 0 n < 2 ^ 32 →
      ∃ t, exec (.csteps m d) s = .next t ∧
        (t.results.stepCount.toNat : Int) = max 0 n ∧ t.results.err = .ok ∧
        (t.off.get m).residual = (n - raw) * stepRes m ∧
        (t.off.get m).prevDir = d ∧ t.off.get m.other = s.off.get m.other ∧
        t.build = s.build ∧ t.dbe = s.dbe ∧ t.seq = s.seq ∧ t.lines = s.lines ∧ t.pwm = s.pwm ∧ s.sameInputs t) ∧
    (2 ^ 32 ≤ max 0 n → exec (.csteps m d) s = .refused .stepCountOverflow)

/-- 10_state.md R28: a CSTEPS whose direction differs from the stored one acts as one that finds the residual negated once
and the direction already stored; one whose direction agrees uses the residual unchanged, in the count and in the residual
that it leaves; with a residual of 0 the stored direction makes no difference. -/
def Obligations.ReversalNegatesTheResidualOnce : Prop :=
  ∀ (s : State) (m : Motor) (d : Dir), s.seq.busy = false →
    ((s.off.get m).prevDir ≠ d →
      exec (.csteps m d) s =
        exec (.csteps m d) { s with off := s.off.set m { residual := -(s.off.get m).residual, prevDir := d } }) ∧
    ((s.off.get m).prevDir = d →
      ∀ (t : State) (n : Int), exec (.csteps m d) s = .next t →
        n = roundNearest ((s.operands.angle - (s.off.get m).residual) / stepRes m) →
        (t.results.stepCount.toNat : Int) = max 0 n ∧
        (t.off.get m).residual = n * stepRes m - (s.operands.angle - (s.off.get m).residual)) ∧
    ((s.off.get m).residual = 0 →
      exec (.csteps m d) s = exec (.csteps m d) { s with off := s.off.set m { residual := 0, prevDir := d } })

/-- A CSTEPS neither reads nor writes the other motor's entry: with another entry there, the same happens
(10_state.md section 3 and R26). -/
def Obligations.CstepsIgnoresTheOtherMotor : Prop :=
  ∀ (s t : State) (m : Motor) (d : Dir) (o : MotorOffset), s.seq.busy = false → exec (.csteps m d) s = .next t →
    t.off.get m.other = s.off.get m.other ∧
    exec (.csteps m d) { s with off := s.off.set m.other o } = .next { t with off := t.off.set m.other o }

/-- The clamp never acts on documented inputs: a residual within its bound and a positive angle give a count that is not
negative (41_stepper_compute.md section 2, derived there). -/
def Obligations.PositiveAngleGivesNoNegativeCount : Prop :=
  ∀ (m : Motor) (d : Dir) (angle : Q) (o : MotorOffset), |o.residual| ≤ stepRes m / 2 → 0 < angle →
    0 ≤ roundedSteps m d angle o

/-- 60_exceptions.md R174: a negative count is a result and no error. CSTEPS completes, updates the entry, answers 0 and
raises nothing; MOVE completes with no pulse to produce, so that its loop is left at once; and with the residual in its
bound this happens only for an angle that is not positive. -/
def Obligations.NegativeCountIsClampedNotAnError : Prop :=
  ∀ (s : State) (m : Motor) (d : Dir), s.seq.busy = false →
    roundedSteps m d s.operands.angle (s.off.get m) < 0 →
    (∃ t, exec (.csteps m d) s = .next t ∧ t.results.stepCount = 0 ∧ t.results.err = .ok ∧
      t.off.get m = nextOffset m d s.operands.angle (s.off.get m)) ∧
    (∀ p : Count, 0 < s.operands.speed → stepPeriod m s.operands.speed = some p →
      ∃ t, exec (.move m d) s = .next t ∧ t.seq.busy = true ∧ t.seq.remaining = 0 ∧
        t.off.get m = nextOffset m d s.operands.angle (s.off.get m) ∧ loopPoint t.seq.remaining = .disable) ∧
    (|(s.off.get m).residual| ≤ stepRes m / 2 → s.operands.angle ≤ 0)

/-- The accounting identity: over any CSTEPS of one motor in the direction stored at the start, the counts are worth the
commanded angle up to the change of the residual, so the error stays within one step, and within half a step from a zero
residual (41_stepper_compute.md section 4, derived there). -/
def Obligations.SameDirectionMovesDoNotDrift : Prop :=
  ∀ (m : Motor) (o : MotorOffset) (angles : List Q), |o.residual| ≤ stepRes m / 2 →
    let run := cstepsRun m o.prevDir o angles
    (run.2.sum : Q) * stepRes m - angles.sum = run.1.residual - o.residual ∧
    |(run.2.sum : Q) * stepRes m - angles.sum| ≤ stepRes m ∧
    (o.residual = 0 → |(run.2.sum : Q) * stepRes m - angles.sum| ≤ stepRes m / 2)

/-- A fixed-point realisation computes exactly what CSTEPS computes: with the resolution, the residual and the angle whole
numbers of one unit, its integer count is the rounded count and its integer residual is the new residual
(41_stepper_compute.md section 2, derived there; the choice of exact arithmetic is the spec's own, D7). -/
def Obligations.FixedPointCstepsIsExact : Prop :=
  ∀ (m : Motor) (d : Dir) (u : Q) (res o a : Int) (off : MotorOffset), 0 < u → 0 < res → stepRes m = res * u →
    off.residual = o * u →
    roundedSteps m d (a * u) off = (fixedCsteps res o (decide (d ≠ off.prevDir)) a).1 ∧
    (nextOffset m d (a * u) off).residual = (fixedCsteps res o (decide (d ≠ off.prevDir)) a).2 * u

/-- CPERIOD on an idle SMC with a positive speed: it completes with the rounded period and no error when the period fits,
changing no other state, and is refused when it does not (41_stepper_compute.md section 3; the width is the spec's own,
D10; the free value of the `stepCount` port is the model's, assumption 3). -/
def Obligations.CperiodGivesTheRoundedPeriod : Prop :=
  nsPerS = 10 ^ 9 ∧
  ∀ (s : State) (m : Motor) (n : Int), s.seq.busy = false → 0 < s.operands.speed →
    IsNearest n (nsPerS / s.operands.speed * stepRes m) →
    (n < 2 ^ 32 →
      ∃ t, exec (.cperiod m) s = .next t ∧ (t.results.period.toNat : Int) = n ∧ t.results.err = .ok ∧
        s.sameKept t ∧ s.sameInputs t) ∧
    (2 ^ 32 ≤ n → exec (.cperiod m) s = .refused .periodOverflow)

/-- The period of a positive speed is 0 exactly above twice the speed of one step a nanosecond, and overflows exactly when
the exact quotient reaches 4294967295.5 (41_stepper_compute.md section 3, derived there). -/
def Obligations.PeriodIsZeroOrOverflowsAtTheStatedSpeeds : Prop :=
  ∀ (m : Motor) (speed : Q), 0 < speed →
    (stepPeriod m speed = some 0 ↔ 2 * nsPerS * stepRes m < speed) ∧
    (stepPeriod m speed = none ↔ 8589934591 / 2 ≤ nsPerS * stepRes m / speed)

/-- 60_exceptions.md R172: CPERIOD and MOVE, taken by an idle SMC, raise `InvalidArgument` exactly when the speed is not
positive, MOVE before anything else is tested; with a positive speed CPERIOD answers no error and MOVE is accepted; no
other operation raises it, and nothing but the error result and the free result ports is written. -/
def Obligations.InvalidArgumentExactlyForNonPositiveSpeed : Prop :=
  ∀ (s : State) (m : Motor) (d : Dir), s.seq.busy = false →
    (s.operands.speed ≤ 0 →
      ∃ t, exec (.cperiod m) s = .next t ∧ exec (.move m d) s = .next t ∧ t.results.err = .invalidArgument ∧
        s.sameKept t ∧ s.sameInputs t) ∧
    (0 < s.operands.speed → ∀ t, (exec (.cperiod m) s = .next t → t.results.err = .ok) ∧
      (exec (.move m d) s = .next t → t.seq.busy = true)) ∧
    (∀ t, exec (.csteps m d) s = .next t → t.results.err = .ok) ∧
    (∀ (t : State) (r : Bool), exec (.sample r) s = .next t ∨ exec .setlvl s = .next t → t.results.err = s.results.err)

/-- Every step keeps the bound on the residuals, half a step of each motor (10_state.md section 3, derived there). -/
def Obligations.StepKeepsResidualBound : Prop :=
  ∀ s t : State, s.residualsOk → step s = .next t → t.residualsOk

/-! ## MOVE -/

/-- MOVE on an idle SMC with a positive speed, a period and a count that fit: it is accepted. The entry is as CSTEPS would
leave it, the sequencer is loaded with CPERIOD's period and the clamped count, `busy` is 1, and nothing else has changed
yet: no line is written and no result is presented (42_stepper_move.md section 1; that MOVE performs the two computations
is the spec's own, D12; the points of the sequencer are the model's, assumption 9, and so is the reading that a result is
presented when the operation ends, assumption 18). -/
def Obligations.MoveIsAcceptedWithCountAndPeriod : Prop :=
  ∀ (s : State) (m : Motor) (d : Dir) (n p : Int), s.seq.busy = false → 0 < s.operands.speed →
    IsNearest p (nsPerS / s.operands.speed * stepRes m) → p < 2 ^ 32 →
    n = roundedSteps m d s.operands.angle (s.off.get m) → n < 2 ^ 32 →
    ∃ t, exec (.move m d) s = .next t ∧ t.seq.busy = true ∧ t.seq.motor = m ∧ t.seq.dir = d ∧
      (t.seq.period.toNat : Int) = p ∧ (t.seq.remaining.toNat : Int) = max 0 n ∧ t.seq.point = .enable ∧
      (t.off.get m) = nextOffset m d s.operands.angle (s.off.get m) ∧ t.off.get m.other = s.off.get m.other ∧
      t.build = s.build ∧ t.dbe = s.dbe ∧ t.lines = s.lines ∧ t.pwm = s.pwm ∧ t.results = s.results ∧ s.sameInputs t

/-- The tests of MOVE in their order: a speed that is not positive raises `InvalidArgument` even where the period or the
count would overflow, a period that overflows is refused even where the count would overflow too, and then the count is
tested; a MOVE that is not accepted has written no line, no entry and no part of the sequencer (42_stepper_move.md section
2; the order is the spec's own, D12). -/
def Obligations.MoveTestsComeBeforeEveryEffect : Prop :=
  ∀ (s : State) (m : Motor) (d : Dir), s.seq.busy = false →
    (s.operands.speed ≤ 0 → ∃ t, exec (.move m d) s = .next t ∧ t.results.err = .invalidArgument ∧ s.sameKept t) ∧
    (0 < s.operands.speed → 8589934591 / 2 ≤ nsPerS * stepRes m / s.operands.speed →
      exec (.move m d) s = .refused .periodOverflow) ∧
    (0 < s.operands.speed → nsPerS * stepRes m / s.operands.speed < 8589934591 / 2 →
      2 ^ 32 ≤ roundedSteps m d s.operands.angle (s.off.get m) → exec (.move m d) s = .refused .stepCountOverflow)

/-- An accepted MOVE leaves the motor entries as the separate CSTEPS would, and uses its count and CPERIOD's period
(42_stepper_move.md section 2, derived there). -/
def Obligations.MoveAgreesWithSeparateOperations : Prop :=
  ∀ (s a b c : State) (m : Motor) (d : Dir), s.seq.busy = false → 0 < s.operands.speed →
    exec (.move m d) s = .next a → exec (.csteps m d) s = .next b → exec (.cperiod m) s = .next c →
    a.off = b.off ∧ a.seq.remaining = b.results.stepCount ∧ a.seq.period = c.results.period

/-- The five actions of a move that write a line: each writes the one line of the moving motor, keeps every other line and
all other state but the position in the move, and goes on to the action that 42_stepper_move.md section 1 lists next; a
move without pulses goes from the direction to the end (section 2, D18). The last one disables the motor, makes `busy` 0
and presents the result, `err` 0 (section 1). The points of the sequencer are the model's (assumption 9), the other result
ports carry free values (assumption 3), and that the result is presented here is assumption 18. -/
def Obligations.LineActionsWriteOneLineInOrder : Prop :=
  ∀ (s : State) (now : Timestamp) (q : Seq), s.seq = q → q.busy = true →
    (q.point = .enable → s.smcTurn now = .next
      { s with lines := s.lines.set q.motor { s.lines.get q.motor with en := true }, seq := { q with point := .direction } }) ∧
    (q.point = .direction → ∃ next : SeqPoint, (next = .disable ↔ q.remaining = 0) ∧ (next = .start ↔ q.remaining ≠ 0) ∧
      s.smcTurn now = .next
        { s with lines := s.lines.set q.motor { s.lines.get q.motor with dir := decide (q.dir = .ccw) },
                 seq := { q with point := next } }) ∧
    (q.point = .raise → s.smcTurn now = .next
      { s with lines := s.lines.set q.motor { s.lines.get q.motor with step := true },
               seq := { q with phase := .high, point := .wait } }) ∧
    (q.point = .lower → s.smcTurn now = .next
      { s with lines := s.lines.set q.motor { s.lines.get q.motor with step := false },
               seq := { q with phase := .low, point := .wait } }) ∧
    (q.point = .disable → ∃ (r : Results) (k : Nat), r.err = .ok ∧ s.smcTurn now = .next
      { s with lines := s.lines.set q.motor { s.lines.get q.motor with en := false }, seq := { q with busy := false },
               results := r, draws := k })

/-- A pulse starts with one clock read, which gives `t0`; the line is raised only after it (42_stepper_move.md section 1;
the order of the read and the write is the spec's own, D17). A clock answer that runs backward or is negative is refused
(93_implementation_defined.md U8; assumption 7). -/
def Obligations.PulseStartsWithItsClockRead : Prop :=
  ∀ (s : State) (now : Timestamp), s.seq.busy = true → s.seq.point = .start →
    (0 ≤ now.toInt → s.lastTime.toInt ≤ now.toInt →
      s.smcTurn now = .next { s with lastTime := now, seq := { s.seq with t0 := now, point := .raise } }) ∧
    (now.toInt < 0 ∨ now.toInt < s.lastTime.toInt → s.smcTurn now = .refused .clockOutsidePremises)

/-- The busy-wait: a clock read whose full difference from `t0` is below the bound leaves the move waiting, the first one
that reaches it ends the wait. The bound is half the period, rounded down, while the step line is high, and the period
after it is lowered, both from the same `t0`; the end of the second wait counts the pulse (42_stepper_move.md section 1;
the halving is the spec's own, D11; one read a step is the model's, assumption 8). A clock answer that runs backward or is
negative is refused (93_implementation_defined.md U8; assumption 7). -/
def Obligations.WaitEndsAtTheFirstReadAtItsBound : Prop :=
  ∀ (s : State) (now : Timestamp) (bound : Int), s.seq.busy = true → s.seq.point = .wait →
    bound = (if s.seq.phase = .high then s.seq.period.toNat / 2 else s.seq.period.toNat : Nat) →
    (0 ≤ now.toInt → s.lastTime.toInt ≤ now.toInt → now.toInt - s.seq.t0.toInt < bound →
      s.smcTurn now = .next { s with lastTime := now }) ∧
    (0 ≤ now.toInt → s.lastTime.toInt ≤ now.toInt → bound ≤ now.toInt - s.seq.t0.toInt →
      ∃ t, s.smcTurn now = .next t ∧ t.lines = s.lines ∧ t.lastTime = now ∧ t.off = s.off ∧ t.dbe = s.dbe ∧
        t.pwm = s.pwm ∧ t.results = s.results ∧ t.seq.busy = true ∧ t.seq.motor = s.seq.motor ∧ t.seq.dir = s.seq.dir ∧
        t.seq.period = s.seq.period ∧ t.seq.t0 = s.seq.t0 ∧
        (s.seq.phase = .high → t.seq.point = .lower ∧ t.seq.remaining = s.seq.remaining) ∧
        (s.seq.phase = .low → t.seq.remaining = s.seq.remaining - 1 ∧
          t.seq.point = if s.seq.remaining = 1 then .disable else .start)) ∧
    (now.toInt < 0 ∨ now.toInt < s.lastTime.toInt → s.smcTurn now = .refused .clockOutsidePremises)

/-- A move runs to its end: from acceptance, under clock answers that meet 20_memory.md R52 and each wait's bound, it takes
the two writes of the start, five actions a pulse and the write of the end, and then 42_stepper_move.md R146 holds: enable
and step of the motor are low (step keeps its earlier level if there was no pulse), the direction line has the direction of
the move, `busy` is 0, the entry keeps what CSTEPS wrote, and the other motor's lines are untouched. One read a step, so
that the scripts meant are those in which every wait ends at its first read, is the model's (assumption 8), and so are the
points of the sequencer (assumption 9). -/
def Obligations.MoveRunsToItsEnd : Prop :=
  ∀ (s : State) (pulses : List PulseTimes) (rest : List EnvMove),
    s.seq.busy = true → s.seq.point = .enable → s.seq.remaining.toNat = pulses.length →
    timesMeet s.seq.period s.lastTime pulses →
    s.script = .smcTurn 0 :: .smcTurn 0 :: (pulses.flatMap PulseTimes.turns ++ .smcTurn 0 :: rest) →
    ∃ t, stepN (5 * pulses.length + 3) s = .next t ∧
      t.seq.busy = false ∧ t.seq.remaining = 0 ∧ t.script = rest ∧ t.results.err = .ok ∧
      (t.lines.get s.seq.motor).en = false ∧ (t.lines.get s.seq.motor).dir = s.seq.dir.bit ∧
      (t.lines.get s.seq.motor).step = (if pulses = [] then (s.lines.get s.seq.motor).step else false) ∧
      t.lines.get s.seq.motor.other = s.lines.get s.seq.motor.other ∧ t.off = s.off ∧ t.pwm = s.pwm ∧ t.held = s.held

/-- Every step keeps the lines in order: idle motors disabled with the step line low, the moving motor's lines as the next
action of its move finds them (42_stepper_move.md sections 1 and 2; 60_exceptions.md section 7; the points of the
sequencer are the model's, assumption 9). -/
def Obligations.StepKeepsLinesInOrder : Prop :=
  ∀ s t : State, s.linesOk → step s = .next t → t.linesOk

/-- Every step keeps the clock premises: the last value read is in its range and never decreases, and the pulse in
progress started at a value that was read (20_memory.md section 1, D17; assumption 7). -/
def Obligations.StepKeepsTheClockMonotonic : Prop :=
  ∀ s t : State, s.clockOk → step s = .next t → t.clockOk ∧ s.lastTime.toInt ≤ t.lastTime.toInt

/-- Once a move is accepted, no step but reset ends it early or turns it to another motor, direction or period: `busy`
falls only at the last action, the one that disables the motor (42_stepper_move.md section 2 and R150). -/
def Obligations.OnlyItsEndOrResetEndsAMove : Prop :=
  ∀ s t : State, s.seq.busy = true → step s = .next t →
    (∃ rest, s.script = .rst :: rest) ∨
    (t.seq.busy = true ∧ t.seq.motor = s.seq.motor ∧ t.seq.dir = s.seq.dir ∧ t.seq.period = s.seq.period ∧ t.off = s.off) ∨
    (t.seq.busy = false ∧ s.seq.point = .disable ∧ (t.lines.get s.seq.motor).en = false ∧ t.off = s.off)

/-! ## SETLVL -/

/-- 43_brightness.md R160: SETLVL of a level up to 100 drives the PWM sink, 0 to an off channel with duty 0, another to an
on channel with duty percent/100, whatever was there before; above 100 it is refused; it changes nothing else; and its
byte is `10000000`. -/
def Obligations.SetlvlDrivesThePwmSink : Prop :=
  ∀ s : State,
    (s.operands.percent = 0 → exec .setlvl s = .next { s with pwm := { enabled := false, duty := 0 } }) ∧
    (0 < s.operands.percent → s.operands.percent ≤ 100 →
      exec .setlvl s = .next { s with pwm := { enabled := true, duty := (s.operands.percent : Q) / 100 } }) ∧
    (100 < s.operands.percent → exec .setlvl s = .refused .percentOutOfRange) ∧
    encode .setlvl = 0b10000000

/-- Every step keeps the PWM sink in its range: the duty is a fraction from 0 to 1 (10_state.md section 7, 20_memory.md
section 1), and 0 while the channel is off, since SETLVL writes both (43_brightness.md; the reset values are the spec's
own, D15). -/
def Obligations.StepKeepsPwmInRange : Prop :=
  ∀ s t : State, s.pwmOk → step s = .next t → t.pwmOk

/-! ## The whole machine -/

/-- The reset state meets every invariant. That of the units rests on the thresholds (00_scope.md section 4, D2; assumption
16) and on the ranges of the open build values (assumption 2), that of the clock on the model's first `lastTime`, 0
(assumption 7), and that of the held command on nothing waiting (assumption 1). -/
def Obligations.ResetMeetsEveryInvariant : Prop :=
  State.reset.unitsOk ∧ State.reset.residualsOk ∧ State.reset.linesOk ∧ State.reset.clockOk ∧ State.reset.pwmOk ∧
    State.reset.heldOk

/-- No operation changes how the hardware is built: every step keeps the thresholds, the interval, the number of units and
which of them have the hold variant (10_state.md section 6, D1; 20_memory.md section 3, D1; that they are carried in the
state is the model's, assumption 2). -/
def Obligations.StepKeepsTheBuild : Prop :=
  ∀ s t : State, step s = .next t → t.build = s.build ∧ t.dbe.map Dbe.holdEnable = s.dbe.map Dbe.holdEnable

/-- The blocks are independent. In either order the same state results from a SAMPLE and an operation of the SMC or the BRT,
from SAMPLEs of two different units, from SETLVL and any operation, and from a SAMPLE or SETLVL and a turn of the SMC,
which takes the next action of a running move (20_memory.md section 3; 10_state.md section 1; 43_brightness.md). -/
def Obligations.IndependentBlocksCommute : Prop :=
  (∀ (s a b : State) (r : Bool), exec (.sample r) s = .next a →
    (∀ i : Instr, (∀ r', i ≠ .sample r') → exec i s = .next b → ∃ t, exec i a = .next t ∧ exec (.sample r) b = .next t) ∧
    (∀ (r' : Bool) (k : Nat), k ≠ s.target → exec (.sample r') { s with target := k } = .next b →
      ∃ t : State, exec (.sample r') { a with target := k } = .next t ∧
        exec (.sample r) { b with target := s.target } = .next { t with target := s.target })) ∧
  (∀ (s a b : State) (i : Instr), exec .setlvl s = .next a → exec i s = .next b →
    ∃ t, exec i a = .next t ∧ exec .setlvl b = .next t) ∧
  (∀ (s a b : State) (i : Instr) (now : Timestamp), (∃ r, i = .sample r) ∨ i = .setlvl → exec i s = .next a →
    s.smcTurn now = .next b → ∃ t, a.smcTurn now = .next t ∧ exec i b = .next t)

/-- Each block writes its own state only: the units change by SAMPLE, the PWM sink by SETLVL, the motor entries by CSTEPS
and MOVE, the sequencer by MOVE, and no operation writes a line; lines are written by the actions of a move
(10_state.md sections 1 to 7; 20_memory.md section 1). -/
def Obligations.EachOperationWritesItsOwnBlock : Prop :=
  ∀ (i : Instr) (s t : State), exec i s = .next t →
    t.lines = s.lines ∧ t.build = s.build ∧ t.lastTime = s.lastTime ∧ t.script = s.script ∧ t.operands = s.operands ∧
    ((∀ r, i ≠ .sample r) → t.dbe = s.dbe) ∧
    (i ≠ .setlvl → t.pwm = s.pwm) ∧
    ((∀ m d, i ≠ .move m d) → t.seq = s.seq) ∧
    (∀ m, (∀ d, i ≠ .csteps m d ∧ i ≠ .move m d) → t.off.get m = s.off.get m) ∧
    ((∃ r, i = .sample r) ∨ i = .setlvl → t.results = s.results ∧ t.draws = s.draws ∧ t.held = s.held)
end

