-- ==== Sys2Proof/Laws/State.lean ====
section
/-! SUPPORT. What each update of the state does to each field, so that no proof unfolds a record update; and the laws of
the two files indexed by the motor. -/

namespace Sys2Proof

@[simp] theorem PerMotor.get_set_same {α : Type} (p : PerMotor α) (m : Motor) (x : α) : (p.set m x).get m = x := by
  cases m <;> rfl

theorem PerMotor.get_set_other {α : Type} (p : PerMotor α) {m m' : Motor} (h : m' ≠ m) (x : α) :
    (p.set m x).get m' = p.get m' := by
  cases m <;> cases m' <;> first | rfl | exact absurd rfl h

@[simp] theorem PerMotor.set_get {α : Type} (p : PerMotor α) (m : Motor) : p.set m (p.get m) = p := by
  cases m <;> rfl

end Sys2Proof

namespace Sys2Proof.Machine

@[simp] theorem Lines.get_put_same (ls : Lines) (l : Line) (v : Bool) : (ls.put l v).get l = v := by
  cases l <;> rfl

theorem Lines.get_put_other (ls : Lines) {l l' : Line} (h : l' ≠ l) (v : Bool) : (ls.put l v).get l' = ls.get l' := by
  cases l <;> cases l' <;> first | rfl | exact absurd rfl h

@[simp] theorem State.pinWrite_build (s : State) (m : Motor) (l : Line) (v : Bool) :
    (s.pinWrite m l v).build = s.build := rfl
@[simp] theorem State.pinWrite_dbe (s : State) (m : Motor) (l : Line) (v : Bool) : (s.pinWrite m l v).dbe = s.dbe := rfl
@[simp] theorem State.pinWrite_off (s : State) (m : Motor) (l : Line) (v : Bool) : (s.pinWrite m l v).off = s.off := rfl
@[simp] theorem State.pinWrite_seq (s : State) (m : Motor) (l : Line) (v : Bool) : (s.pinWrite m l v).seq = s.seq := rfl
@[simp] theorem State.pinWrite_lines (s : State) (m : Motor) (l : Line) (v : Bool) :
    (s.pinWrite m l v).lines = s.lines.set m ((s.lines.get m).put l v) := rfl
@[simp] theorem State.pinWrite_results (s : State) (m : Motor) (l : Line) (v : Bool) :
    (s.pinWrite m l v).results = s.results := rfl
@[simp] theorem State.pinWrite_pwm (s : State) (m : Motor) (l : Line) (v : Bool) : (s.pinWrite m l v).pwm = s.pwm := rfl
@[simp] theorem State.pinWrite_operands (s : State) (m : Motor) (l : Line) (v : Bool) :
    (s.pinWrite m l v).operands = s.operands := rfl
@[simp] theorem State.pinWrite_held (s : State) (m : Motor) (l : Line) (v : Bool) :
    (s.pinWrite m l v).held = s.held := rfl
@[simp] theorem State.pinWrite_target (s : State) (m : Motor) (l : Line) (v : Bool) :
    (s.pinWrite m l v).target = s.target := rfl
@[simp] theorem State.pinWrite_lastTime (s : State) (m : Motor) (l : Line) (v : Bool) :
    (s.pinWrite m l v).lastTime = s.lastTime := rfl
@[simp] theorem State.pinWrite_script (s : State) (m : Motor) (l : Line) (v : Bool) :
    (s.pinWrite m l v).script = s.script := rfl
@[simp] theorem State.pinWrite_draws (s : State) (m : Motor) (l : Line) (v : Bool) :
    (s.pinWrite m l v).draws = s.draws := rfl

@[simp] theorem State.pwmEnable_build (s : State) (b : Bool) : (s.pwmEnable b).build = s.build := rfl
@[simp] theorem State.pwmEnable_dbe (s : State) (b : Bool) : (s.pwmEnable b).dbe = s.dbe := rfl
@[simp] theorem State.pwmEnable_off (s : State) (b : Bool) : (s.pwmEnable b).off = s.off := rfl
@[simp] theorem State.pwmEnable_seq (s : State) (b : Bool) : (s.pwmEnable b).seq = s.seq := rfl
@[simp] theorem State.pwmEnable_lines (s : State) (b : Bool) : (s.pwmEnable b).lines = s.lines := rfl
@[simp] theorem State.pwmEnable_results (s : State) (b : Bool) : (s.pwmEnable b).results = s.results := rfl
@[simp] theorem State.pwmEnable_pwm (s : State) (b : Bool) : (s.pwmEnable b).pwm = { s.pwm with enabled := b } := rfl
@[simp] theorem State.pwmEnable_operands (s : State) (b : Bool) : (s.pwmEnable b).operands = s.operands := rfl
@[simp] theorem State.pwmEnable_held (s : State) (b : Bool) : (s.pwmEnable b).held = s.held := rfl
@[simp] theorem State.pwmEnable_target (s : State) (b : Bool) : (s.pwmEnable b).target = s.target := rfl
@[simp] theorem State.pwmEnable_lastTime (s : State) (b : Bool) : (s.pwmEnable b).lastTime = s.lastTime := rfl
@[simp] theorem State.pwmEnable_script (s : State) (b : Bool) : (s.pwmEnable b).script = s.script := rfl
@[simp] theorem State.pwmEnable_draws (s : State) (b : Bool) : (s.pwmEnable b).draws = s.draws := rfl

@[simp] theorem State.pwmSetDuty_build (s : State) (f : Q) : (s.pwmSetDuty f).build = s.build := rfl
@[simp] theorem State.pwmSetDuty_dbe (s : State) (f : Q) : (s.pwmSetDuty f).dbe = s.dbe := rfl
@[simp] theorem State.pwmSetDuty_off (s : State) (f : Q) : (s.pwmSetDuty f).off = s.off := rfl
@[simp] theorem State.pwmSetDuty_seq (s : State) (f : Q) : (s.pwmSetDuty f).seq = s.seq := rfl
@[simp] theorem State.pwmSetDuty_lines (s : State) (f : Q) : (s.pwmSetDuty f).lines = s.lines := rfl
@[simp] theorem State.pwmSetDuty_results (s : State) (f : Q) : (s.pwmSetDuty f).results = s.results := rfl
@[simp] theorem State.pwmSetDuty_pwm (s : State) (f : Q) : (s.pwmSetDuty f).pwm = { s.pwm with duty := f } := rfl
@[simp] theorem State.pwmSetDuty_operands (s : State) (f : Q) : (s.pwmSetDuty f).operands = s.operands := rfl
@[simp] theorem State.pwmSetDuty_held (s : State) (f : Q) : (s.pwmSetDuty f).held = s.held := rfl
@[simp] theorem State.pwmSetDuty_target (s : State) (f : Q) : (s.pwmSetDuty f).target = s.target := rfl
@[simp] theorem State.pwmSetDuty_lastTime (s : State) (f : Q) : (s.pwmSetDuty f).lastTime = s.lastTime := rfl
@[simp] theorem State.pwmSetDuty_script (s : State) (f : Q) : (s.pwmSetDuty f).script = s.script := rfl
@[simp] theorem State.pwmSetDuty_draws (s : State) (f : Q) : (s.pwmSetDuty f).draws = s.draws := rfl

@[simp] theorem State.putDbe_build (s : State) (k : Nat) (d : Dbe) : (s.putDbe k d).build = s.build := rfl
@[simp] theorem State.putDbe_dbe (s : State) (k : Nat) (d : Dbe) : (s.putDbe k d).dbe = s.dbe.set k d := rfl
@[simp] theorem State.putDbe_off (s : State) (k : Nat) (d : Dbe) : (s.putDbe k d).off = s.off := rfl
@[simp] theorem State.putDbe_seq (s : State) (k : Nat) (d : Dbe) : (s.putDbe k d).seq = s.seq := rfl
@[simp] theorem State.putDbe_lines (s : State) (k : Nat) (d : Dbe) : (s.putDbe k d).lines = s.lines := rfl
@[simp] theorem State.putDbe_results (s : State) (k : Nat) (d : Dbe) : (s.putDbe k d).results = s.results := rfl
@[simp] theorem State.putDbe_pwm (s : State) (k : Nat) (d : Dbe) : (s.putDbe k d).pwm = s.pwm := rfl
@[simp] theorem State.putDbe_operands (s : State) (k : Nat) (d : Dbe) : (s.putDbe k d).operands = s.operands := rfl
@[simp] theorem State.putDbe_held (s : State) (k : Nat) (d : Dbe) : (s.putDbe k d).held = s.held := rfl
@[simp] theorem State.putDbe_target (s : State) (k : Nat) (d : Dbe) : (s.putDbe k d).target = s.target := rfl
@[simp] theorem State.putDbe_lastTime (s : State) (k : Nat) (d : Dbe) : (s.putDbe k d).lastTime = s.lastTime := rfl
@[simp] theorem State.putDbe_script (s : State) (k : Nat) (d : Dbe) : (s.putDbe k d).script = s.script := rfl
@[simp] theorem State.putDbe_draws (s : State) (k : Nat) (d : Dbe) : (s.putDbe k d).draws = s.draws := rfl

@[simp] theorem State.putOffset_build (s : State) (m : Motor) (o : MotorOffset) :
    (s.putOffset m o).build = s.build := rfl
@[simp] theorem State.putOffset_dbe (s : State) (m : Motor) (o : MotorOffset) : (s.putOffset m o).dbe = s.dbe := rfl
@[simp] theorem State.putOffset_off (s : State) (m : Motor) (o : MotorOffset) :
    (s.putOffset m o).off = s.off.set m o := rfl
@[simp] theorem State.putOffset_seq (s : State) (m : Motor) (o : MotorOffset) : (s.putOffset m o).seq = s.seq := rfl
@[simp] theorem State.putOffset_lines (s : State) (m : Motor) (o : MotorOffset) :
    (s.putOffset m o).lines = s.lines := rfl
@[simp] theorem State.putOffset_results (s : State) (m : Motor) (o : MotorOffset) :
    (s.putOffset m o).results = s.results := rfl
@[simp] theorem State.putOffset_pwm (s : State) (m : Motor) (o : MotorOffset) : (s.putOffset m o).pwm = s.pwm := rfl
@[simp] theorem State.putOffset_operands (s : State) (m : Motor) (o : MotorOffset) :
    (s.putOffset m o).operands = s.operands := rfl
@[simp] theorem State.putOffset_held (s : State) (m : Motor) (o : MotorOffset) : (s.putOffset m o).held = s.held := rfl
@[simp] theorem State.putOffset_target (s : State) (m : Motor) (o : MotorOffset) :
    (s.putOffset m o).target = s.target := rfl
@[simp] theorem State.putOffset_lastTime (s : State) (m : Motor) (o : MotorOffset) :
    (s.putOffset m o).lastTime = s.lastTime := rfl
@[simp] theorem State.putOffset_script (s : State) (m : Motor) (o : MotorOffset) :
    (s.putOffset m o).script = s.script := rfl
@[simp] theorem State.putOffset_draws (s : State) (m : Motor) (o : MotorOffset) :
    (s.putOffset m o).draws = s.draws := rfl

@[simp] theorem State.putSeq_build (s : State) (q : Seq) : (s.putSeq q).build = s.build := rfl
@[simp] theorem State.putSeq_dbe (s : State) (q : Seq) : (s.putSeq q).dbe = s.dbe := rfl
@[simp] theorem State.putSeq_off (s : State) (q : Seq) : (s.putSeq q).off = s.off := rfl
@[simp] theorem State.putSeq_seq (s : State) (q : Seq) : (s.putSeq q).seq = q := rfl
@[simp] theorem State.putSeq_lines (s : State) (q : Seq) : (s.putSeq q).lines = s.lines := rfl
@[simp] theorem State.putSeq_results (s : State) (q : Seq) : (s.putSeq q).results = s.results := rfl
@[simp] theorem State.putSeq_pwm (s : State) (q : Seq) : (s.putSeq q).pwm = s.pwm := rfl
@[simp] theorem State.putSeq_operands (s : State) (q : Seq) : (s.putSeq q).operands = s.operands := rfl
@[simp] theorem State.putSeq_held (s : State) (q : Seq) : (s.putSeq q).held = s.held := rfl
@[simp] theorem State.putSeq_target (s : State) (q : Seq) : (s.putSeq q).target = s.target := rfl
@[simp] theorem State.putSeq_lastTime (s : State) (q : Seq) : (s.putSeq q).lastTime = s.lastTime := rfl
@[simp] theorem State.putSeq_script (s : State) (q : Seq) : (s.putSeq q).script = s.script := rfl
@[simp] theorem State.putSeq_draws (s : State) (q : Seq) : (s.putSeq q).draws = s.draws := rfl

@[simp] theorem State.report_build (s : State) (e : ErrCode) (c p : Option Count) :
    (s.report e c p).build = s.build := rfl
@[simp] theorem State.report_dbe (s : State) (e : ErrCode) (c p : Option Count) : (s.report e c p).dbe = s.dbe := rfl
@[simp] theorem State.report_off (s : State) (e : ErrCode) (c p : Option Count) : (s.report e c p).off = s.off := rfl
@[simp] theorem State.report_seq (s : State) (e : ErrCode) (c p : Option Count) : (s.report e c p).seq = s.seq := rfl
@[simp] theorem State.report_lines (s : State) (e : ErrCode) (c p : Option Count) :
    (s.report e c p).lines = s.lines := rfl
@[simp] theorem State.report_results (s : State) (e : ErrCode) (c p : Option Count) :
    (s.report e c p).results = { err := e, stepCount := c.getD (Config.freeStepCount s.draws), period := p.getD (Config.freePeriod s.draws) } := rfl
@[simp] theorem State.report_pwm (s : State) (e : ErrCode) (c p : Option Count) : (s.report e c p).pwm = s.pwm := rfl
@[simp] theorem State.report_operands (s : State) (e : ErrCode) (c p : Option Count) :
    (s.report e c p).operands = s.operands := rfl
@[simp] theorem State.report_held (s : State) (e : ErrCode) (c p : Option Count) : (s.report e c p).held = s.held := rfl
@[simp] theorem State.report_target (s : State) (e : ErrCode) (c p : Option Count) :
    (s.report e c p).target = s.target := rfl
@[simp] theorem State.report_lastTime (s : State) (e : ErrCode) (c p : Option Count) :
    (s.report e c p).lastTime = s.lastTime := rfl
@[simp] theorem State.report_script (s : State) (e : ErrCode) (c p : Option Count) :
    (s.report e c p).script = s.script := rfl
@[simp] theorem State.report_draws (s : State) (e : ErrCode) (c p : Option Count) :
    (s.report e c p).draws = s.draws + 1 := rfl

@[simp] theorem State.raiseInvalidArgument_build (s : State) : (s.raiseInvalidArgument).build = s.build := rfl
@[simp] theorem State.raiseInvalidArgument_dbe (s : State) : (s.raiseInvalidArgument).dbe = s.dbe := rfl
@[simp] theorem State.raiseInvalidArgument_off (s : State) : (s.raiseInvalidArgument).off = s.off := rfl
@[simp] theorem State.raiseInvalidArgument_seq (s : State) : (s.raiseInvalidArgument).seq = s.seq := rfl
@[simp] theorem State.raiseInvalidArgument_lines (s : State) : (s.raiseInvalidArgument).lines = s.lines := rfl
@[simp] theorem State.raiseInvalidArgument_results (s : State) :
    (s.raiseInvalidArgument).results = { err := .invalidArgument, stepCount := Config.freeStepCount s.draws, period := Config.freePeriod s.draws } := rfl
@[simp] theorem State.raiseInvalidArgument_pwm (s : State) : (s.raiseInvalidArgument).pwm = s.pwm := rfl
@[simp] theorem State.raiseInvalidArgument_operands (s : State) : (s.raiseInvalidArgument).operands = s.operands := rfl
@[simp] theorem State.raiseInvalidArgument_held (s : State) : (s.raiseInvalidArgument).held = s.held := rfl
@[simp] theorem State.raiseInvalidArgument_target (s : State) : (s.raiseInvalidArgument).target = s.target := rfl
@[simp] theorem State.raiseInvalidArgument_lastTime (s : State) : (s.raiseInvalidArgument).lastTime = s.lastTime := rfl
@[simp] theorem State.raiseInvalidArgument_script (s : State) : (s.raiseInvalidArgument).script = s.script := rfl
@[simp] theorem State.raiseInvalidArgument_draws (s : State) : (s.raiseInvalidArgument).draws = s.draws + 1 := rfl

@[simp] theorem State.hold_build (s : State) (c : Byte) : (s.hold c).build = s.build := rfl
@[simp] theorem State.hold_dbe (s : State) (c : Byte) : (s.hold c).dbe = s.dbe := rfl
@[simp] theorem State.hold_off (s : State) (c : Byte) : (s.hold c).off = s.off := rfl
@[simp] theorem State.hold_seq (s : State) (c : Byte) : (s.hold c).seq = s.seq := rfl
@[simp] theorem State.hold_lines (s : State) (c : Byte) : (s.hold c).lines = s.lines := rfl
@[simp] theorem State.hold_results (s : State) (c : Byte) : (s.hold c).results = s.results := rfl
@[simp] theorem State.hold_pwm (s : State) (c : Byte) : (s.hold c).pwm = s.pwm := rfl
@[simp] theorem State.hold_operands (s : State) (c : Byte) : (s.hold c).operands = s.operands := rfl
@[simp] theorem State.hold_held (s : State) (c : Byte) : (s.hold c).held = some c := rfl
@[simp] theorem State.hold_target (s : State) (c : Byte) : (s.hold c).target = s.target := rfl
@[simp] theorem State.hold_lastTime (s : State) (c : Byte) : (s.hold c).lastTime = s.lastTime := rfl
@[simp] theorem State.hold_script (s : State) (c : Byte) : (s.hold c).script = s.script := rfl
@[simp] theorem State.hold_draws (s : State) (c : Byte) : (s.hold c).draws = s.draws := rfl

@[simp] theorem Dbe.expire_holdEnable (d : Dbe) (e : Event) : (d.expire e).holdEnable = d.holdEnable := rfl
@[simp] theorem Dbe.expire_shiftRegister (d : Dbe) (e : Event) : (d.expire e).shiftRegister = d.shiftRegister := rfl
@[simp] theorem Dbe.expire_debouncedState (d : Dbe) (e : Event) : (d.expire e).debouncedState = d.debouncedState := rfl
@[simp] theorem Dbe.expire_holdCounter (d : Dbe) (e : Event) : (d.expire e).holdCounter = d.holdCounter := rfl

/-- The limit on the free event (30_encoding.md R72). -/
theorem Dbe.expire_stillPressed {d : Dbe} {e : Event} (h : (d.expire e).ev = .stillPressed) : d.holdEnable = true := by
  cases hd : d.holdEnable
  · cases e <;> simp [Dbe.expire, hd] at h
  · rfl

@[simp] theorem State.expireResults_build (s : State) : (s.expireResults).build = s.build := rfl
@[simp] theorem State.expireResults_dbe (s : State) :
    (s.expireResults).dbe = s.dbe.mapIdx (fun k d => d.expire (Config.freeEvent s.draws k)) := rfl
@[simp] theorem State.expireResults_off (s : State) : (s.expireResults).off = s.off := rfl
@[simp] theorem State.expireResults_seq (s : State) : (s.expireResults).seq = s.seq := rfl
@[simp] theorem State.expireResults_lines (s : State) : (s.expireResults).lines = s.lines := rfl
@[simp] theorem State.expireResults_results (s : State) :
    (s.expireResults).results = { err := Config.freeErr s.draws, stepCount := Config.freeStepCount s.draws, period := Config.freePeriod s.draws } := rfl
@[simp] theorem State.expireResults_pwm (s : State) : (s.expireResults).pwm = s.pwm := rfl
@[simp] theorem State.expireResults_operands (s : State) : (s.expireResults).operands = s.operands := rfl
@[simp] theorem State.expireResults_held (s : State) : (s.expireResults).held = s.held := rfl
@[simp] theorem State.expireResults_target (s : State) : (s.expireResults).target = s.target := rfl
@[simp] theorem State.expireResults_lastTime (s : State) : (s.expireResults).lastTime = s.lastTime := rfl
@[simp] theorem State.expireResults_script (s : State) : (s.expireResults).script = s.script := rfl
@[simp] theorem State.expireResults_draws (s : State) : (s.expireResults).draws = s.draws + 1 := rfl

@[simp] theorem State.applyReset_build (s : State) : (s.applyReset).build = s.build := rfl
@[simp] theorem State.applyReset_dbe (s : State) :
    (s.applyReset).dbe = s.dbe.map (fun d => Dbe.afterReset d.holdEnable) := rfl
@[simp] theorem State.applyReset_off (s : State) :
    (s.applyReset).off = { spark := MotorOffset.afterReset, kysan := MotorOffset.afterReset } := rfl
@[simp] theorem State.applyReset_seq (s : State) : (s.applyReset).seq = Seq.afterReset := rfl
@[simp] theorem State.applyReset_lines (s : State) :
    (s.applyReset).lines = { spark := Lines.afterReset, kysan := Lines.afterReset } := rfl
@[simp] theorem State.applyReset_results (s : State) : (s.applyReset).results = { s.results with err := .ok } := rfl
@[simp] theorem State.applyReset_pwm (s : State) : (s.applyReset).pwm = { enabled := false, duty := 0 } := rfl
@[simp] theorem State.applyReset_operands (s : State) : (s.applyReset).operands = s.operands := rfl
@[simp] theorem State.applyReset_held (s : State) : (s.applyReset).held = s.held := rfl
@[simp] theorem State.applyReset_target (s : State) : (s.applyReset).target = s.target := rfl
@[simp] theorem State.applyReset_lastTime (s : State) : (s.applyReset).lastTime = s.lastTime := rfl
@[simp] theorem State.applyReset_script (s : State) : (s.applyReset).script = s.script := rfl
@[simp] theorem State.applyReset_draws (s : State) : (s.applyReset).draws = s.draws := rfl

end Sys2Proof.Machine
end

