-- ==== Sys2Proof/Laws/Step.lean ====
section
/-! SUPPORT. What each operation, each action of a move and each step can do, said once: if it answers a next state, then
one of these cases holds. Later proofs cite these instead of unfolding the machine. -/

namespace Sys2Proof.Machine

theorem execSample_next {r : Bool} {s t : State} (h : execSample r s = .next t) :
    ∃ d, s.dbe[s.target]? = some d ∧ t = s.putDbe s.target (d.sample s.build r) := by
  unfold execSample at h
  split at h
  · next d hd => exact ⟨d, hd, by simpa using h.symm⟩
  · cases h

theorem execCsteps_next {m : Motor} {d : Dir} {s t : State} (h : execCsteps m d s = .next t) :
    (s.seq.busy = true ∧ t = s.hold (encode (.csteps m d))) ∨
    (s.seq.busy = false ∧ ∃ c, stepCount m d s.operands.angle (s.off.get m) = some c ∧
      t = (s.putOffset m (nextOffset m d s.operands.angle (s.off.get m))).report .ok (some c) none) := by
  unfold execCsteps at h
  split at h
  · next hb => exact .inl ⟨hb, by simpa using h.symm⟩
  · next hb =>
    split at h
    · cases h
    · next c hc => exact .inr ⟨by simpa using hb, c, hc, by simpa using h.symm⟩

theorem execCperiod_next {m : Motor} {s t : State} (h : execCperiod m s = .next t) :
    (s.seq.busy = true ∧ t = s.hold (encode (.cperiod m))) ∨
    (s.seq.busy = false ∧ s.operands.speed ≤ 0 ∧ t = s.raiseInvalidArgument) ∨
    (s.seq.busy = false ∧ 0 < s.operands.speed ∧ ∃ p, stepPeriod m s.operands.speed = some p ∧
      t = s.report .ok none (some p)) := by
  unfold execCperiod at h
  split at h
  · next hb => exact .inl ⟨hb, by simpa using h.symm⟩
  · next hb =>
    split at h
    · next hs => exact .inr (.inl ⟨by simpa using hb, hs, by simpa using h.symm⟩)
    · next hs =>
      split at h
      · cases h
      · next p hp => exact .inr (.inr ⟨by simpa using hb, not_le.mp hs, p, hp, by simpa using h.symm⟩)

theorem execMove_next {m : Motor} {d : Dir} {s t : State} (h : execMove m d s = .next t) :
    (s.seq.busy = true ∧ t = s.hold (encode (.move m d))) ∨
    (s.seq.busy = false ∧ s.operands.speed ≤ 0 ∧ t = s.raiseInvalidArgument) ∨
    (s.seq.busy = false ∧ 0 < s.operands.speed ∧ ∃ p c, stepPeriod m s.operands.speed = some p ∧
      stepCount m d s.operands.angle (s.off.get m) = some c ∧ t = s.accepted m d p c) := by
  unfold execMove at h
  split at h
  · next hb => exact .inl ⟨hb, by simpa using h.symm⟩
  · next hb =>
    split at h
    · next hs => exact .inr (.inl ⟨by simpa using hb, hs, by simpa using h.symm⟩)
    · next hs =>
      split at h
      · cases h
      · next p hp =>
        split at h
        · cases h
        · next c hc =>
          exact .inr (.inr ⟨by simpa using hb, not_le.mp hs, p, c, hp, hc, by simpa using h.symm⟩)

theorem execSetlvl_next {s t : State} (h : execSetlvl s = .next t) :
    (s.operands.percent = 0 ∧ t = (s.pwmSetDuty 0).pwmEnable false) ∨
    (0 < s.operands.percent ∧ s.operands.percent ≤ 100 ∧
      t = (s.pwmEnable true).pwmSetDuty (dutyOf s.operands.percent)) := by
  unfold execSetlvl at h
  split at h
  · cases h
  · next h100 =>
    split at h
    · next h0 => exact .inl ⟨h0, by simpa using h.symm⟩
    · next h0 => exact .inr ⟨by omega, by omega, by simpa using h.symm⟩

theorem State.timeNow_some {s t : State} {now : Timestamp} (h : s.timeNow now = some t) :
    (0 ≤ now.toInt ∧ s.lastTime.toInt ≤ now.toInt) ∧ t = { s with lastTime := now } := by
  unfold State.timeNow timeAllowed at h
  split at h
  · next hc => exact ⟨by simpa using hc, by simpa using h.symm⟩
  · cases h

theorem State.withClock_next {s t : State} {now : Timestamp} {k : State → State} (h : s.withClock now k = .next t) :
    (0 ≤ now.toInt ∧ s.lastTime.toInt ≤ now.toInt) ∧ t = k { s with lastTime := now } := by
  unfold State.withClock at h
  split at h
  · next u hu =>
    obtain ⟨hc, rfl⟩ := State.timeNow_some hu
    exact ⟨hc, by simpa using h.symm⟩
  · cases h

/-- Everything one action of a move can do (42_stepper_move.md R141). -/
theorem State.moveAction_next {s t : State} {now : Timestamp} (h : s.moveAction now = .next t) :
    (s.seq.point = .enable ∧ t = (s.pinWrite s.seq.motor .en true).putSeq { s.seq with point := .direction }) ∨
    (s.seq.point = .direction ∧
      t = (s.pinWrite s.seq.motor .dir s.seq.dir.bit).putSeq { s.seq with point := loopPoint s.seq.remaining }) ∨
    (s.seq.point = .start ∧ (0 ≤ now.toInt ∧ s.lastTime.toInt ≤ now.toInt) ∧
      t = State.putSeq { s with lastTime := now } { s.seq with t0 := now, point := .raise }) ∨
    (s.seq.point = .raise ∧
      t = (s.pinWrite s.seq.motor .step true).putSeq { s.seq with phase := .high, point := .wait }) ∨
    (s.seq.point = .wait ∧ (0 ≤ now.toInt ∧ s.lastTime.toInt ≤ now.toInt) ∧
      t = if s.seq.elapsed now then State.putSeq { s with lastTime := now } s.seq.afterWait
          else { s with lastTime := now }) ∨
    (s.seq.point = .lower ∧
      t = (s.pinWrite s.seq.motor .step false).putSeq { s.seq with phase := .low, point := .wait }) ∨
    (s.seq.point = .disable ∧
      t = ((s.pinWrite s.seq.motor .en false).putSeq { s.seq with busy := false }).report .ok none none) := by
  unfold State.moveAction at h
  dsimp only at h
  split at h
  · next hp => exact .inl ⟨hp, by simpa using h.symm⟩
  · next hp => exact .inr (.inl ⟨hp, by simpa using h.symm⟩)
  · next hp =>
    obtain ⟨hc, rfl⟩ := State.withClock_next h
    exact .inr (.inr (.inl ⟨hp, hc, rfl⟩))
  · next hp => exact .inr (.inr (.inr (.inl ⟨hp, by simpa using h.symm⟩)))
  · next hp =>
    obtain ⟨hc, rfl⟩ := State.withClock_next h
    exact .inr (.inr (.inr (.inr (.inl ⟨hp, hc, rfl⟩))))
  · next hp => exact .inr (.inr (.inr (.inr (.inr (.inl ⟨hp, by simpa using h.symm⟩)))))
  · next hp => exact .inr (.inr (.inr (.inr (.inr (.inr ⟨hp, by simpa using h.symm⟩)))))

theorem State.smcTurn_next {s t : State} {now : Timestamp} (h : s.smcTurn now = .next t) :
    (s.seq.busy = false ∧ t = s) ∨ (s.seq.busy = true ∧ s.moveAction now = .next t) := by
  unfold State.smcTurn at h
  split at h
  · next hb => exact .inr ⟨hb, h⟩
  · next hb => exact .inl ⟨by simpa using hb, by simpa using h.symm⟩

theorem decodeAt_ok {p : Port} {c : Byte} {i : Instr} (h : decodeAt p c = .ok i) :
    decode c = .ok i ∧ i.wellFormedAt p = true := by
  unfold decodeAt at h
  split at h
  · next j hj =>
    split at h
    · next hw => cases h; exact ⟨hj, hw⟩
    · cases h
  · cases h

theorem State.receive_next {s t : State} {p : Port} {c : Byte} (h : s.receive p c = .next t) :
    ∃ i, decodeAt p c = .ok i ∧ exec i (s.aim p) = .next t := by
  unfold State.receive at h
  split at h
  · next i hi => exact ⟨i, hi, h⟩
  · cases h

theorem State.resetApplied_iff {s : State} : s.resetApplied = true ↔ ∃ rest, s.script = .rst :: rest := by
  unfold State.resetApplied
  split
  · next hs => simp [hs]
  · next hn => simpa using fun rest hs => hn rest hs

theorem State.ready_of_busy {s : State} (hb : s.seq.busy = true) : s.ready = none := by simp [State.ready, hb]

theorem State.ready_of_reset {s : State} {rest : List EnvMove} (hs : s.script = .rst :: rest) : s.ready = none := by
  simp [State.ready, State.resetApplied_iff.mpr ⟨rest, hs⟩]

theorem State.ready_some {s : State} {c : Byte} (h : s.ready = some c) :
    s.seq.busy = false ∧ s.resetApplied = false ∧ s.held = some c := by
  unfold State.ready at h
  split at h
  · cases h
  · next hb => exact ⟨by simp_all, by simp_all, h⟩

/-- Everything one step can do: a waiting command is run; the environment moves; or the SMC goes on by itself. The state
it starts from is the one with the results expired. -/
theorem step_next {s t : State} (h : step s = .next t) :
    (∃ c, s.ready = some c ∧ State.receive { s.expireResults with held := none } .smc c = .next t) ∨
    (s.ready = none ∧ s.script = [] ∧
      State.smcTurn { s.expireResults with draws := s.draws + 2 } s.expireResults.freeTime = .next t) ∨
    (∃ mv rest, s.ready = none ∧ s.script = mv :: rest ∧
      State.environment { s.expireResults with script := rest } mv = .next t) := by
  unfold step State.turn at h
  have hr : s.expireResults.ready = s.ready := rfl
  rw [hr] at h
  split at h
  · next c hc => exact .inl ⟨c, hc, h⟩
  · next hn =>
    split at h
    · next hs => exact .inr (.inl ⟨hn, hs, h⟩)
    · next mv rest hs => exact .inr (.inr ⟨mv, rest, hn, hs, h⟩)

/-- A SAMPLE at an existing unit completes. -/
theorem exec_sample_of {s : State} {d : Dbe} (h : s.dbe[s.target]? = some d) (r : Bool) :
    exec (.sample r) s = .next (s.putDbe s.target (d.sample s.build r)) := by
  simp only [exec, execSample, h]

/-- A clock read within the premises completes. -/
theorem State.withClock_of {s : State} {now : Timestamp} {k : State → State} (h0 : 0 ≤ now.toInt)
    (h1 : s.lastTime.toInt ≤ now.toInt) : s.withClock now k = .next (k { s with lastTime := now }) := by
  simp [State.withClock, State.timeNow, timeAllowed, h0, h1]

/-- SETLVL of a level up to 100 completes, and writes the PWM sink only. -/
theorem exec_setlvl_of {s : State} (h : s.operands.percent ≤ 100) :
    exec .setlvl s = .next { s with pwm :=
      if s.operands.percent = 0 then { enabled := false, duty := 0 }
      else { enabled := true, duty := dutyOf s.operands.percent } } := by
  simp only [exec, execSetlvl]
  rw [if_neg (by omega)]
  split <;> rfl

/-- The environment moves when no waiting command is to be taken; reset needs no such premise (`State.ready_of_reset`). -/
theorem step_environment {s : State} {mv : EnvMove} {rest : List EnvMove} (hr : s.ready = none)
    (hs : s.script = mv :: rest) : step s = State.environment { s.expireResults with script := rest } mv := by
  have hr' : s.expireResults.ready = none := hr
  have hs' : s.expireResults.script = mv :: rest := hs
  simp only [step, State.turn, hr', hs']

/-- The expiry of the results changes nothing that the hardware keeps. -/
theorem State.expireResults_sameButResults (s : State) : s.sameButResults s.expireResults := by
  refine ⟨rfl, rfl, rfl, rfl, rfl, by simp, fun k d hk => ?_⟩
  exact ⟨d.expire (Config.freeEvent s.draws k), by simp [hk], rfl, rfl, rfl, rfl⟩

/-- A scripted turn of a busy SMC takes the next action of its move. -/
theorem step_smcTurn {s : State} {now : Timestamp} {rest : List EnvMove} (hb : s.seq.busy = true)
    (hs : s.script = .smcTurn now :: rest) : step s = State.moveAction { s.expireResults with script := rest } now := by
  have hr : s.expireResults.ready = none := State.ready_of_busy hb
  have hs' : s.expireResults.script = .smcTurn now :: rest := hs
  have hb' : s.expireResults.seq.busy = true := hb
  simp only [step, State.turn, hr, hs', State.environment, State.smcTurn, hb']
  rfl

/-- A run of steps that begins with a step to `t`. -/
theorem stepN_succ {s t : State} {k : Nat} (h : step s = .next t) : stepN (k + 1) s = stepN k t := by
  simp only [stepN, h]

/-- The fields that a property of the hardware's state and its clock may speak of. -/
abbrev State.sameHardware (s t : State) : Prop :=
  t.build = s.build ∧ t.dbe = s.dbe ∧ t.off = s.off ∧ t.seq = s.seq ∧ t.lines = s.lines ∧ t.pwm = s.pwm ∧
    t.lastTime = s.lastTime

theorem State.aim_sameHardware (s : State) (p : Port) : s.sameHardware (s.aim p) := by
  cases p <;> exact ⟨rfl, rfl, rfl, rfl, rfl, rfl, rfl⟩

/-- An invariant of the hardware's state, once for every step: it is enough that the operations, the actions of a move,
reset and the expiry of the results keep it. -/
theorem step_keeps {P : State → Prop}
    (same : ∀ s t : State, s.sameHardware t → P s → P t)
    (expire : ∀ s : State, P s → P s.expireResults)
    (reset : ∀ s : State, P s → P s.applyReset)
    (run : ∀ (i : Instr) (s t : State), P s → exec i s = .next t → P t)
    (action : ∀ (s t : State) (now : Timestamp), P s → s.seq.busy = true → s.moveAction now = .next t → P t)
    {s t : State} (hs : P s) (h : step s = .next t) : P t := by
  have hr : ∀ (u : State) (p : Port) (c : Byte), P u → State.receive u p c = .next t → P t := by
    intro u p c hu h
    obtain ⟨i, _, hi⟩ := State.receive_next h
    exact run i _ _ (same _ _ (State.aim_sameHardware u p) hu) hi
  have ht : ∀ (u : State) (now : Timestamp), P u → State.smcTurn u now = .next t → P t := by
    intro u now hu h
    rcases State.smcTurn_next h with ⟨_, rfl⟩ | ⟨hb, ha⟩
    · exact hu
    · exact action _ _ now hu hb ha
  have he := expire s hs
  rcases step_next h with ⟨c, _, h⟩ | ⟨_, _, h⟩ | ⟨mv, rest, _, _, h⟩
  · refine hr _ _ _ ?_ h
    exact same s.expireResults _ ⟨rfl, rfl, rfl, rfl, rfl, rfl, rfl⟩ he
  · refine ht _ _ ?_ h
    exact same s.expireResults _ ⟨rfl, rfl, rfl, rfl, rfl, rfl, rfl⟩ he
  · have hu : P { s.expireResults with script := rest } :=
      same s.expireResults _ ⟨rfl, rfl, rfl, rfl, rfl, rfl, rfl⟩ he
    cases mv with
    | rst => cases h; exact reset _ hu
    | driveAngle q => cases h; exact same { s.expireResults with script := rest } _ ⟨rfl, rfl, rfl, rfl, rfl, rfl, rfl⟩ hu
    | driveSpeed q => cases h; exact same { s.expireResults with script := rest } _ ⟨rfl, rfl, rfl, rfl, rfl, rfl, rfl⟩ hu
    | drivePercent n => cases h; exact same { s.expireResults with script := rest } _ ⟨rfl, rfl, rfl, rfl, rfl, rfl, rfl⟩ hu
    | withdraw => cases h; exact same { s.expireResults with script := rest } _ ⟨rfl, rfl, rfl, rfl, rfl, rfl, rfl⟩ hu
    | present p c => exact hr _ p c hu h
    | smcTurn now => exact ht _ now hu h

end Sys2Proof.Machine
end

