-- ==== Sys2Proof/Laws/Compute.lean ====
section
/-! SUPPORT. The small laws of the SMC's numbers: the resolutions are positive, a result is fitted into 32 bits or not at
all (41_stepper_compute.md R129), and how CSTEPS finds the residual (R122). -/

namespace Sys2Proof.Machine

theorem stepRes_pos (m : Motor) : 0 < stepRes m := by cases m <;> norm_num [stepRes]

theorem toCount_of_lt {n : Nat} (h : n < 2 ^ 32) : toCount n = some (BitVec.ofNat 32 n) := if_pos h

theorem toCount_of_le {n : Nat} (h : 2 ^ 32 ≤ n) : toCount n = none := if_neg (Nat.not_lt.mpr h)

theorem toCount_some {n : Nat} {c : Count} (h : toCount n = some c) : c.toNat = n := by
  rcases Nat.lt_or_ge n (2 ^ 32) with hn | hn
  · rw [toCount_of_lt hn, Option.some.injEq] at h
    rw [← h, BitVec.toNat_ofNat, Nat.mod_eq_of_lt hn]
  · rw [toCount_of_le hn] at h
    cases h

theorem carriedResidual_same {d : Dir} {o : MotorOffset} (h : d = o.prevDir) : carriedResidual d o = o.residual :=
  if_pos h

theorem carriedResidual_reversed {d : Dir} {o : MotorOffset} (h : d ≠ o.prevDir) : carriedResidual d o = -o.residual :=
  if_neg h

/-- The new residual without the division (41_stepper_compute.md R122). -/
theorem nextOffset_residual (m : Motor) (d : Dir) (a : Q) (o : MotorOffset) :
    (nextOffset m d a o).residual = roundedSteps m d a o * stepRes m - (a - carriedResidual d o) := by
  have h := (stepRes_pos m).ne'
  simp only [nextOffset, rawSteps]
  field_simp

/-- The rounding is off by at most one half (00_scope.md R12). -/
theorem roundNearest_abs (x : Q) : |(roundNearest x : Q) - x| ≤ 1 / 2 := by
  unfold roundNearest
  split
  · have h1 := Int.floor_le (x + 1 / 2)
    have h2 := Int.lt_floor_add_one (x + 1 / 2)
    rw [show (x + 1 / 2).floor = ⌊x + 1 / 2⌋ from rfl, abs_le]
    constructor <;> linarith
  · have h1 := Int.floor_le (-x + 1 / 2)
    have h2 := Int.lt_floor_add_one (-x + 1 / 2)
    rw [show (-x + 1 / 2).floor = ⌊-x + 1 / 2⌋ from rfl, abs_le]
    push_cast
    constructor <;> linarith

end Sys2Proof.Machine
end

