-- ==== Sys2Proof/Laws/Debounce.lean ====
section
/-! SUPPORT. What one SAMPLE gives in each row of the state table (40_debounce.md R114), and the bits of the shift. -/

namespace Sys2Proof.Machine

/-- The bits of `sr'` (40_debounce.md R101). -/
theorem shiftIn_getLsbD (sr : Byte) (r : Bool) (i : Nat) (hi : i < 8) :
    (shiftIn sr r).getLsbD i = if i = 7 then r else sr.getLsbD (i + 1) := by
  have h : ∀ (r : Bool) (n : Fin 256) (i : Fin 8), (shiftIn (BitVec.ofFin n) r).getLsbD i =
      if i.val = 7 then r else (BitVec.ofFin n : BitVec 8).getLsbD (i.val + 1) := by decide +kernel
  exact h r sr.toFin ⟨i, hi⟩

/-- The value of `sr'`. -/
theorem shiftIn_toNat (sr : Byte) (r : Bool) : (shiftIn sr r).toNat = sr.toNat / 2 + (if r then 128 else 0) := by
  have h : ∀ (r : Bool) (n : Fin 256), (shiftIn (BitVec.ofFin n) r).toNat =
      (BitVec.ofFin n : BitVec 8).toNat / 2 + (if r then 128 else 0) := by decide +kernel
  exact h r sr.toFin

variable {b : Config.Build} {d : Dbe} {r : Bool}

@[simp] theorem Dbe.sample_holdEnable : (d.sample b r).holdEnable = d.holdEnable := rfl

@[simp] theorem Dbe.sample_shiftRegister : (d.sample b r).shiftRegister = shiftIn d.shiftRegister r := rfl

/-- Released, and the press test succeeds. -/
theorem Dbe.sample_press (hd : d.debouncedState = .released) (h : shiftIn d.shiftRegister r ≤ b.pressThreshold) :
    d.sample b r = { d with
      shiftRegister := shiftIn d.shiftRegister r, debouncedState := .pressed,
      holdCounter := if d.holdEnable then 0 else d.holdCounter, ev := .pressed } := by
  simp [Dbe.sample, hd, nextLevel, h, edgeEvent, nextHold, holdFires]

/-- Released, and the press test fails. -/
theorem Dbe.sample_stayReleased (hd : d.debouncedState = .released)
    (h : ¬ shiftIn d.shiftRegister r ≤ b.pressThreshold) :
    d.sample b r = { d with
      shiftRegister := shiftIn d.shiftRegister r, debouncedState := .released,
      holdCounter := if d.holdEnable then 0 else d.holdCounter, ev := .noEvent } := by
  simp [Dbe.sample, hd, nextLevel, h, edgeEvent, nextHold, holdFires]

/-- Pressed, and the release test succeeds. -/
theorem Dbe.sample_release (hd : d.debouncedState = .pressed) (h : b.releaseThreshold ≤ shiftIn d.shiftRegister r) :
    d.sample b r = { d with
      shiftRegister := shiftIn d.shiftRegister r, debouncedState := .released,
      holdCounter := if d.holdEnable then 0 else d.holdCounter, ev := .released } := by
  simp [Dbe.sample, hd, nextLevel, h, edgeEvent, nextHold, holdFires]

/-- Pressed, and the release test fails. -/
theorem Dbe.sample_stayPressed (hd : d.debouncedState = .pressed)
    (h : ¬ b.releaseThreshold ≤ shiftIn d.shiftRegister r) :
    d.sample b r = { d with
      shiftRegister := shiftIn d.shiftRegister r, debouncedState := .pressed,
      holdCounter := if d.holdEnable then (d.holdCounter + 1) % b.holdInterval else d.holdCounter,
      ev := if d.holdEnable = true ∧ shiftIn d.shiftRegister r = 0 ∧ (d.holdCounter + 1) % b.holdInterval = 0
        then .stillPressed else .noEvent } := by
  cases he : d.holdEnable <;> simp [Dbe.sample, hd, nextLevel, h, edgeEvent, nextHold, holdFires, saturated, he]

/-- Everything one SAMPLE can do. -/
theorem Dbe.sample_cases (b : Config.Build) (d : Dbe) (r : Bool) :
    (d.debouncedState = .released ∧ shiftIn d.shiftRegister r ≤ b.pressThreshold ∧
      (d.sample b r).debouncedState = .pressed ∧ (d.sample b r).ev = .pressed) ∨
    (d.debouncedState = .released ∧ ¬ shiftIn d.shiftRegister r ≤ b.pressThreshold ∧
      (d.sample b r).debouncedState = .released ∧ (d.sample b r).ev = .noEvent) ∨
    (d.debouncedState = .pressed ∧ b.releaseThreshold ≤ shiftIn d.shiftRegister r ∧
      (d.sample b r).debouncedState = .released ∧ (d.sample b r).ev = .released) ∨
    (d.debouncedState = .pressed ∧ ¬ b.releaseThreshold ≤ shiftIn d.shiftRegister r ∧
      (d.sample b r).debouncedState = .pressed ∧
      ((d.sample b r).ev = .noEvent ∨ (d.sample b r).ev = .stillPressed)) := by
  cases hd : d.debouncedState
  · by_cases h : b.releaseThreshold ≤ shiftIn d.shiftRegister r
    · exact .inr (.inr (.inl (by simp [Dbe.sample_release hd h, h])))
    · refine .inr (.inr (.inr ⟨rfl, h, by simp [Dbe.sample_stayPressed hd h], ?_⟩))
      simp only [Dbe.sample_stayPressed hd h]
      split <;> simp
  · by_cases h : shiftIn d.shiftRegister r ≤ b.pressThreshold
    · exact .inl (by simp [Dbe.sample_press hd h, h])
    · exact .inr (.inl (by simp [Dbe.sample_stayReleased hd h, h]))

end Sys2Proof.Machine
end

