-- ==== Sys2Proof/Laws/PerInstr.lean ====
section
/-! SUPPORT. One law per operation: its command byte lies in its row of opcode_table.json (30_encoding.md R77: a byte `c`
is the row's operation exactly when `c & mask == match`). -/

namespace Sys2Proof.Laws.TableRow

/-- The row's mask and match, from opcode_table.json. -/
def row : Instr → Byte × Byte
  | .sample _ => (0xFE, 0x00)
  | .csteps _ _ => (0xFC, 0x20)
  | .cperiod _ => (0xFD, 0x40)
  | .move _ _ => (0xFC, 0x60)
  | .setlvl => (0xFF, 0x80)

/-- The operation's byte is in its row. -/
def Statement (i : Instr) : Prop := encode i &&& (row i).1 = (row i).2

theorem sample (r : Bool) : Statement (.sample r) := by cases r <;> rfl

theorem csteps (m : Motor) (d : Dir) : Statement (.csteps m d) := by cases m <;> cases d <;> rfl

theorem cperiod (m : Motor) : Statement (.cperiod m) := by cases m <;> rfl

theorem move (m : Motor) (d : Dir) : Statement (.move m d) := by cases m <;> cases d <;> rfl

theorem setlvl : Statement .setlvl := rfl

end Sys2Proof.Laws.TableRow
end

