-- ==== Sys2Proof/Tests/Slice0.lean ====
section
/-! SUPPORT. The model's own tests, with results from the spec's vectors (95_test_vectors.md V<n>) or worked out from its
rules, and for each statement with premises a witness that meets them, at the boundaries of its clauses. -/

namespace Sys2Proof.Tests

open Sys2Proof Sys2Proof.Machine

-- one kernel evaluation at a time: each takes a thread with a large stack
set_option Elab.async false

/-! ## Helpers -/

/-- A machine after reset with a plain unit 0 and a hold unit 1, interval 4 (the parameters of V10). -/
def fresh : State := State.resetWith { pressThreshold := 0x3F, releaseThreshold := 0xFC, holdInterval := 4 } [false, true]

/-- With values at the operand ports. -/
def ports (angle speed : Q) (percent : Nat) : State :=
  { fresh with operands := { angle := angle, speed := speed, percent := percent } }

/-- With unit 0 at a given register and state. -/
def unit (sr : Byte) (l : Level) : State :=
  fresh.putDbe 0 { holdEnable := false, shiftRegister := sr, debouncedState := l, holdCounter := 0, ev := .noEvent }

/-- With the hold unit selected, at a given register, state and counter. -/
def holdUnit (sr : Byte) (l : Level) (hc : Nat) : State :=
  { fresh.putDbe 1 { holdEnable := true, shiftRegister := sr, debouncedState := l, holdCounter := hc, ev := .noEvent } with
    target := 1 }

/-- With a move of Kysan, CW, in progress: period 2500000, two steps to come (V50). -/
def moving (pt : SeqPoint) (ph : Phase) (t0 last : Timestamp) : State :=
  { fresh with
    seq := { busy := true, motor := .kysan, dir := .cw, remaining := 2, period := 2500000, phase := ph, point := pt, t0 := t0 }
    lastTime := last }

/-- With the environment's moves given. -/
def scripted (s : State) (ms : List EnvMove) : State := { s with script := ms }

/-- With a residual and a direction stored for Kysan. -/
def stored (s : State) (x : Q) (d : Dir) : State := s.putOffset .kysan { residual := x, prevDir := d }

/-- The outcome is a next state with the property. -/
def nextIs (o : Host.Outcome State Fault Refusal) (p : State → Bool) : Bool :=
  match o with
  | .next t => p t
  | .fault _ => false
  | .refused _ => false

/-- The refusal of an outcome. -/
def refusalOf (o : Host.Outcome State Fault Refusal) : Option Refusal :=
  match o with
  | .refused r => some r
  | .next _ => none
  | .fault _ => none

/-- The unit at index `k` has this register, state, counter and event. -/
def unitIs (t : State) (k : Nat) (sr : Byte) (l : Level) (hc : Nat) (e : Event) : Bool :=
  (t.dbe[k]?).elim false fun d => d.shiftRegister == sr && d.debouncedState == l && d.holdCounter == hc && d.ev == e

/-! ## Well-formedness: each check refuses an ill-formed term -/

theorem test_wellFormed_dbe_port : Instr.wellFormedAt (.dbe 0) (.sample true) = true ∧
    Instr.wellFormedAt (.dbe 0) (.csteps .spark .cw) = false := by decide

theorem test_wellFormed_smc_port : Instr.wellFormedAt .smc (.move .kysan .ccw) = true ∧
    Instr.wellFormedAt .smc (.sample false) = false ∧ Instr.wellFormedAt .smc .setlvl = false := by decide

theorem test_wellFormed_brt_port : Instr.wellFormedAt .brt .setlvl = true ∧
    Instr.wellFormedAt .brt (.cperiod .spark) = false := by decide

theorem test_wellFormed_build : Config.Build.wellFormed { pressThreshold := 0x3F, releaseThreshold := 0xFC, holdInterval := 1 } = true ∧
    Config.Build.wellFormed { pressThreshold := 0x3F, releaseThreshold := 0xFC, holdInterval := 0 } = false := by decide

/-! ## Decoding: the 13 bytes of V70, bit by bit, and the reserved bytes -/

theorem test_decode_sample : decodeAt (.dbe 3) 0b00000000 = .ok (.sample false) ∧
    decodeAt (.dbe 3) 0b00000001 = .ok (.sample true) := by decide

theorem test_decode_csteps : decodeAt .smc 0b00100000 = .ok (.csteps .spark .cw) ∧
    decodeAt .smc 0b00100001 = .ok (.csteps .spark .ccw) ∧ decodeAt .smc 0b00100010 = .ok (.csteps .kysan .cw) ∧
    decodeAt .smc 0b00100011 = .ok (.csteps .kysan .ccw) := by decide

theorem test_decode_cperiod : decodeAt .smc 0b01000000 = .ok (.cperiod .spark) ∧
    decodeAt .smc 0b01000010 = .ok (.cperiod .kysan) := by decide

theorem test_decode_move : decodeAt .smc 0b01100000 = .ok (.move .spark .cw) ∧
    decodeAt .smc 0b01100001 = .ok (.move .spark .ccw) ∧ decodeAt .smc 0b01100010 = .ok (.move .kysan .cw) ∧
    decodeAt .smc 0b01100011 = .ok (.move .kysan .ccw) := by decide

theorem test_decode_setlvl : decodeAt .brt 0b10000000 = .ok .setlvl := by decide

/-- Every way to be reserved (30_encoding.md R81). -/
theorem test_decode_reserved : decodeAt (.dbe 0) 0b00000010 = .error .motorBit ∧
    decodeAt .brt 0b10000010 = .error .motorBit ∧ decodeAt .brt 0b10000001 = .error .lowBit ∧
    decodeAt .smc 0b01000001 = .error .lowBit ∧ decodeAt .smc 0b00100100 = .error .zeroField ∧
    decodeAt .smc 0b11100000 = .error .reservedOp ∧ decodeAt .brt 0b00000000 = .error .wrongPort ∧
    decodeAt (.dbe 0) 0b10000000 = .error .wrongPort := by decide

/-- 13 of the 256 bytes are well formed at some port (30_encoding.md R81). -/
theorem test_decode_counts :
    ((List.range 256).filter fun n => (decodeTableWord 8 n).isSome).length = 13 := by decide +kernel

/-- The output codes (30_encoding.md R70, R72, R75). -/
theorem test_codes : levelBit .pressed = 0 ∧ levelBit .released = 1 ∧ eventCode .pressed = 0b01 ∧
    eventCode .released = 0b10 ∧ eventCode .stillPressed = 0b11 ∧ eventCode .noEvent = 0b00 ∧
    errCode .invalidArgument = 0b01 ∧ errCode .ok = 0b00 := by decide

/-! ## SAMPLE -/

/-- V8 and V1: equality with the press threshold presses, one above does not. -/
theorem test_sample_press : nextIs (exec (.sample false) (unit 0x7F .released)) (unitIs · 0 0x3F .pressed 0 .pressed) = true ∧
    nextIs (exec (.sample false) (unit 0x80 .released)) (unitIs · 0 0x40 .released 0 .noEvent) = true := by decide

/-- V8: equality with the release threshold releases, one below does not; bit 0 is lost. -/
theorem test_sample_release : nextIs (exec (.sample true) (unit 0xF8 .pressed)) (unitIs · 0 0xFC .released 0 .released) = true ∧
    nextIs (exec (.sample true) (unit 0xF6 .pressed)) (unitIs · 0 0xFB .pressed 0 .noEvent) = true ∧
    nextIs (exec (.sample false) (unit 0x01 .pressed)) (unitIs · 0 0x00 .pressed 0 .noEvent) = true := by decide

/-- V10, operations 10, 22 and 26, in the hold unit. -/
theorem test_sample_hold :
    nextIs (exec (.sample false) (holdUnit 0x00 .pressed 3)) (unitIs · 1 0x00 .pressed 0 .stillPressed) = true ∧
    nextIs (exec (.sample true) (holdUnit 0x80 .pressed 3)) (unitIs · 1 0xC0 .pressed 0 .noEvent) = true ∧
    nextIs (exec (.sample true) (holdUnit 0xF8 .pressed 3)) (unitIs · 1 0xFC .released 0 .released) = true := by decide

/-! ## CSTEPS and CPERIOD -/

/-- V31, rows 1 and 2. -/
theorem test_csteps_residual :
    nextIs (exec (.csteps .kysan .cw) (ports 25 0 0))
      (fun t => t.results.stepCount == 222 && t.off.kysan == { residual := -1 / 40, prevDir := .cw }) = true ∧
    nextIs (exec (.csteps .kysan .cw) (stored (ports 25 0 0) (-1 / 40) .cw))
      (fun t => t.results.stepCount == 222 && t.off.kysan == { residual := -1 / 20, prevDir := .cw }) = true := by
  decide +kernel

/-- V32 (a reversal), V36 (the clamp, from the unclamped count). -/
theorem test_csteps_reversal_clamp :
    nextIs (exec (.csteps .kysan .ccw) (stored (ports 25 0 0) (-1 / 40) .cw))
      (fun t => t.results.stepCount == 222 && t.off.kysan == { residual := 0, prevDir := .ccw }) = true ∧
    nextIs (exec (.csteps .kysan .cw) (stored (ports (-1) 0 0) (-1 / 40) .cw))
      (fun t => t.results.stepCount == 0 && t.off.kysan == { residual := -3 / 80, prevDir := .cw }) = true := by
  decide +kernel

/-- V40: a rounded period, a tie, and a period of 0. -/
theorem test_cperiod_rounds :
    nextIs (exec (.cperiod .spark) (ports 0 90 0)) (fun t => t.results.period == 694444 && t.results.err == .ok) = true ∧
    nextIs (exec (.cperiod .kysan) (ports 0 225000000 0)) (fun t => t.results.period == 1) = true ∧
    nextIs (exec (.cperiod .kysan) (ports 0 225000001 0)) (fun t => t.results.period == 0) = true := by decide +kernel

/-- V40: the exception, and the refusal. -/
theorem test_cperiod_stops :
    nextIs (exec (.cperiod .spark) (ports 0 (-5) 0)) (fun t => t.results.err == .invalidArgument) = true ∧
    refusalOf (exec (.cperiod .spark) (ports 0 (1 / 100) 0)) = some .periodOverflow := by decide +kernel

/-! ## MOVE -/

/-- V50, action 1. -/
theorem test_move_accepted :
    nextIs (exec (.move .kysan .cw) (ports (1 / 4) 45 0))
      (fun t => t.seq.busy && t.seq.remaining == 2 && t.seq.period == 2500000 &&
        t.off.kysan == { residual := -1 / 40, prevDir := .cw } && !t.lines.kysan.en) = true := by decide +kernel

/-- V54: an exception before any effect, and the two refusals. -/
theorem test_move_stops :
    nextIs (exec (.move .kysan .ccw) (stored (ports 25 0 0) (-1 / 40) .cw))
      (fun t => t.results.err == .invalidArgument && t.off.kysan == { residual := -1 / 40, prevDir := .cw } &&
        !t.seq.busy) = true ∧
    refusalOf (exec (.move .spark .cw) (ports 90 (1 / 100) 0)) = some .periodOverflow ∧
    refusalOf (exec (.move .spark .cw) (ports 268435456 90 0)) = some .stepCountOverflow := by decide +kernel

/-- V50, actions 6 and 7: below the bound the move waits, at equality the wait ends. -/
theorem test_move_wait :
    nextIs (step (scripted (moving .wait .high 1000 1000) [.smcTurn 500000])) (fun t => t.seq.point == .wait) = true ∧
    nextIs (step (scripted (moving .wait .high 1000 500000) [.smcTurn 1251000])) (fun t => t.seq.point == .lower) = true := by
  decide +kernel

/-- V50, actions 9 and 2, and V56: the end of a step, a line write, a reset during the move. -/
theorem test_move_actions :
    nextIs (step (scripted (moving .wait .low 1000 1251000) [.smcTurn 2501000]))
      (fun t => t.seq.point == .start && t.seq.remaining == 1) = true ∧
    nextIs (step (scripted (moving .enable .low 0 0) [.smcTurn 0])) (fun t => t.lines.kysan.en && !t.lines.spark.en) = true ∧
    nextIs (step (scripted (moving .wait .high 1000 1000) [.rst])) (fun t => !t.seq.busy) = true := by decide +kernel

/-! ## SETLVL -/

/-- V60. -/
theorem test_setlvl :
    nextIs (exec .setlvl (ports 0 0 25)) (fun t => t.pwm == { enabled := true, duty := 1 / 4 }) = true ∧
    nextIs (exec .setlvl ((ports 0 0 0).pwmEnable true)) (fun t => t.pwm == { enabled := false, duty := 0 }) = true ∧
    refusalOf (exec .setlvl (ports 0 0 101)) = some .percentOutOfRange := by decide +kernel

/-! ## The step from reset -/

/-- The command of a table word is the first thing that the machine of this hardware runs after reset. -/
theorem test_withFetchWord :
    nextIs (step (State.reset.withFetchWord 8 0x80)) (fun t => t.pwm == { enabled := false, duty := 0 }) = true ∧
    nextIs (step (State.reset.withFetchWord 8 0x40)) (fun t => t.results.err == .invalidArgument) = true := by decide +kernel

/-! ## Witnesses: a state and operands that meet all premises of each statement, named after it -/

/-- The clock answers of V50 that end each wait. -/
def pulses : List PulseTimes :=
  [{ t0 := 1000, high := 1251000, low := 2501000 }, { t0 := 2501500, high := 3760000, low := 5001500 }]

/-- A move of Kysan that has just been accepted, two pulses to come. -/
def accepted : State :=
  scripted (moving .enable .low 0 0)
    (.smcTurn 0 :: .smcTurn 0 :: (pulses.flatMap PulseTimes.turns ++ [.smcTurn 0]))

theorem witness_StepRunsTheDecodedCommand :
    (scripted fresh [.present (.dbe 1) 0x01]).ready = none ∧
    (scripted fresh [.present (.dbe 1) 0x01]).script = .present (.dbe 1) 0x01 :: [] ∧
    decodeAt (.dbe 1) 0x01 = .ok (.sample true) := ⟨rfl, rfl, rfl⟩

theorem witness_HeldCommandTakenWhenIdle :
    (fresh.hold 0x23).seq.busy = false ∧ (fresh.hold 0x23).held = some 0x23 ∧
    decodeAt .smc 0x23 = .ok (.csteps .kysan .ccw) ∧ (fresh.hold 0x23).script.head? ≠ some .rst :=
  ⟨rfl, rfl, rfl, by decide⟩

/-- Presented to an idle and to a busy SMC, and waiting at an idle one. -/
theorem witness_ReservedByteIsRefused :
    ((scripted fresh [.present .smc 0xA0]).ready = none ∧
      (scripted fresh [.present .smc 0xA0]).script = .present .smc 0xA0 :: []) ∧
    ((scripted (moving .enable .low 0 0) [.present .smc 0xA0]).ready = none ∧
      (scripted (moving .enable .low 0 0) [.present .smc 0xA0]).script = .present .smc 0xA0 :: []) ∧
    (fresh.hold 0xA0).ready = some 0xA0 ∧
    (∀ i : Instr, i.wellFormedAt .smc = true → (0xA0 : Byte) ≠ encode i) := by
  refine ⟨⟨rfl, rfl⟩, ⟨rfl, rfl⟩, rfl, fun i _ => ?_⟩
  cases i with
  | sample r => cases r <;> decide
  | csteps m d => cases m <;> cases d <;> decide
  | cperiod m => cases m <;> decide
  | move m d => cases m <;> cases d <;> decide
  | setlvl => decide

/-- A step in which a busy SMC holds a command. -/
theorem witness_StepKeepsHeldCommandWellFormed :
    (scripted (moving .enable .low 0 0) [.present .smc 0x23]).heldOk ∧
    nextIs (step (scripted (moving .enable .low 0 0) [.present .smc 0x23])) (fun t => t.held == some 0x23) = true :=
  ⟨fun c hc => (by cases hc), by decide⟩

theorem witness_BusySmcHoldsItsCommands : (moving .enable .low 0 0).seq.busy = true := rfl

theorem witness_IdleMachineKeepsItsState : fresh.seq.busy = false ∧ fresh.held = none ∧ fresh.script = [] :=
  ⟨rfl, rfl, rfl⟩

/-- Each of the four moves, with a move of the SMC running. -/
theorem witness_EnvironmentMovesChangeOneInput :
    ∀ mv ∈ [EnvMove.driveAngle 1, .driveSpeed 1, .drivePercent 1, .withdraw],
      (scripted (moving .start .low 0 0) [mv]).ready = none ∧ (scripted (moving .start .low 0 0) [mv]).script = mv :: [] := by
  decide

theorem witness_EvOutputShowsTheChangeOfStateOutput :
    ((unit 0x7F .released).dbe[(unit 0x7F .released).target]?).map Dbe.stateOut = some 1 ∧
    ((unit 0xF8 .pressed).dbe[(unit 0xF8 .pressed).target]?).map Dbe.stateOut = some 0 := by decide

/-- Each clause. -/
theorem witness_SmcOutputsShowItsOperations :
    (ports 25 0 0).busyOut = 0 ∧ (ports 25 90 0).busyOut = 0 ∧ (ports 25 0 0).operands.speed ≤ 0 ∧
    0 < (ports 25 90 0).operands.speed ∧
    nextIs (exec (.cperiod .spark) (ports 25 0 0)) (fun t => t.errOut == 0b01) = true ∧
    nextIs (exec (.move .spark .cw) (ports 25 0 0)) (fun t => t.errOut == 0b01) = true ∧
    nextIs (exec (.move .spark .cw) (ports 25 90 0)) (fun t => t.busyOut == 1) = true ∧
    nextIs (exec (.cperiod .spark) (ports 25 90 0)) (fun t => t.errOut == 0b00) = true ∧
    nextIs (exec (.csteps .spark .cw) (ports 25 90 0)) (fun t => t.errOut == 0b00) = true := by decide +kernel

/-- During a move, and with a command that waits to be taken by an idle SMC. -/
theorem witness_ResetInputRestoresResetValues :
    (scripted (moving .wait .high 1000 1000) [.rst]).script = .rst :: [] ∧
    (scripted (fresh.hold 0x23) [.rst]).script = .rst :: [] ∧
    nextIs (step (scripted (fresh.hold 0x23) [.rst])) (fun t => t.held == some 0x23) = true := by decide

/-- Both clauses of the released state at their boundary, and the pressed state. -/
theorem witness_SampleInReleasedStateIsThePressTest :
    ((unit 0x7F .released).dbe[(unit 0x7F .released).target]?).map Dbe.debouncedState = some .released ∧
    (shiftIn 0x7F false).toNat ≤ (unit 0x7F .released).build.pressThreshold.toNat ∧
    ((unit 0x80 .released).dbe[(unit 0x80 .released).target]?).map Dbe.debouncedState = some .released ∧
    (unit 0x80 .released).build.pressThreshold.toNat < (shiftIn 0x80 false).toNat ∧
    ((unit 0xFF .pressed).dbe[(unit 0xFF .pressed).target]?).map Dbe.debouncedState = some .pressed := by decide

/-- Both clauses of the pressed state at their boundary. -/
theorem witness_SampleInPressedStateIsTheReleaseTest :
    ((unit 0xF8 .pressed).dbe[(unit 0xF8 .pressed).target]?).map Dbe.debouncedState = some .pressed ∧
    (unit 0xF8 .pressed).build.releaseThreshold.toNat ≤ (shiftIn 0xF8 true).toNat ∧
    ((unit 0xF6 .pressed).dbe[(unit 0xF6 .pressed).target]?).map Dbe.debouncedState = some .pressed ∧
    (shiftIn 0xF6 true).toNat < (unit 0xF6 .pressed).build.releaseThreshold.toNat := by decide

/-- A unit with the hold variant at the wrap of its counter, and one without it. -/
theorem witness_SampleCountsAndRepeatsWhileHeld :
    ((holdUnit 0x00 .pressed 3).dbe[(holdUnit 0x00 .pressed 3).target]?).map Dbe.holdEnable = some true ∧
    ((unit 0x00 .pressed).dbe[(unit 0x00 .pressed).target]?).map Dbe.holdEnable = some false := by decide

theorem witness_SampleChangesOnlyItsUnit :
    nextIs (exec (.sample true) fresh) (fun _ => true) = true ∧ 1 ≠ fresh.target := by decide

theorem witness_SampleWithoutUnitFaults :
    ({ fresh with target := 2 } : State).dbe.length ≤ ({ fresh with target := 2 } : State).target := by decide

/-- Each clause, with this hardware's thresholds, and with a run length at an end of its range. -/
theorem witness_ThresholdsAreRunLengths :
    fresh.build.pressThreshold.toNat = 2 ^ 6 - 1 ∧ fresh.build.releaseThreshold.toNat = 256 - 2 ^ 2 ∧
    (Dbe.afterReset false).debouncedState = .released ∧ (0xFF : Byte).toNat = 2 ^ 8 - 1 ∧ (0xFF : Byte).toNat = 256 - 2 ^ 0 ∧
    (Dbe.sample fresh.build false { Dbe.afterReset false with shiftRegister := 0x7F }).debouncedState = .pressed := by decide

theorem witness_RegisterHoldsTheNewestSamples : 0 < 8 ∧ 7 < 8 := by decide

/-- The first and the second edge of V4. -/
theorem witness_EdgesAlternateFromReset :
    (((Dbe.afterReset false).events fresh.build [false, false, true, true, true, true, true, true]).filter Event.isEdge)[0]? =
      some .pressed ∧
    (((Dbe.afterReset false).events fresh.build [false, false, true, true, true, true, true, true]).filter Event.isEdge)[1]? =
      some .released := by decide

theorem witness_IsolatedGlitchGivesNoEvent :
    fresh.build.pressThreshold ≤ 0x3F ∧ (Dbe.afterReset false).debouncedState = .released ∧
    (Dbe.afterReset false).shiftRegister.getLsbD 7 = true := by decide

/-- Each clause with this hardware's thresholds; V1 and V4. -/
theorem witness_SteadyInputGivesOneEdge :
    (1 ≤ 2 ∧ 2 ≤ 8 ∧ fresh.build.pressThreshold.toNat = 2 ^ (8 - 2) - 1 ∧ 0x80 ≤ fresh.build.releaseThreshold ∧
      (Dbe.afterReset false).debouncedState = .released ∧ (Dbe.afterReset false).shiftRegister.getLsbD 7 = true ∧
      ((Dbe.afterReset false).events fresh.build (List.replicate 3 false))[1]? = some .pressed) ∧
    (1 ≤ 6 ∧ 6 ≤ 8 ∧ fresh.build.releaseThreshold.toNat = 256 - 2 ^ (8 - 6) ∧ fresh.build.pressThreshold < 0x80 ∧
      ({ Dbe.afterReset false with shiftRegister := 0, debouncedState := .pressed } : Dbe).shiftRegister.getLsbD 7 = false ∧
      (({ Dbe.afterReset false with shiftRegister := 0, debouncedState := .pressed } : Dbe).events fresh.build
        (List.replicate 6 true))[5]? = some .released) := by decide

/-- V10, operations 3 to 10: the press was at operation 2, the eighth sample after it repeats. -/
theorem witness_RepeatsFallOnTheIntervalGrid :
    1 ≤ fresh.build.holdInterval ∧
    ({ Dbe.afterReset true with shiftRegister := 0x3F, debouncedState := .pressed } : Dbe).holdEnable = true ∧
    ({ Dbe.afterReset true with shiftRegister := 0x3F, debouncedState := .pressed } : Dbe).holdCounter = 0 ∧
    (∀ e ∈ ({ Dbe.afterReset true with shiftRegister := 0x3F, debouncedState := .pressed } : Dbe).events fresh.build
      (List.replicate 7 false ++ [false]), e ≠ .released) ∧
    (({ Dbe.afterReset true with shiftRegister := 0x3F, debouncedState := .pressed } : Dbe).afterSamples fresh.build
      (List.replicate 7 false ++ [false])).ev = .stillPressed := by decide

/-- A step that presses unit 0 by a SAMPLE byte, and one that releases it by reset. -/
theorem witness_OnlySampleOrResetChangesDebouncedState :
    (scripted (unit 0x7F .released) [.present (.dbe 0) 0x00]).dbe[0]?.map Dbe.debouncedState = some .released ∧
    nextIs (step (scripted (unit 0x7F .released) [.present (.dbe 0) 0x00])) (unitIs · 0 0x3F .pressed 0 .pressed) = true ∧
    (scripted (unit 0x3F .pressed) [.rst]).dbe[0]?.map Dbe.debouncedState = some .pressed ∧
    nextIs (step (scripted (unit 0x3F .pressed) [.rst])) (unitIs · 0 0xFF .released 0 .noEvent) = true := by
  decide

theorem witness_StepKeepsUnitInvariant :
    (scripted fresh [.present (.dbe 0) 0x00]).unitsOk ∧
    nextIs (step (scripted fresh [.present (.dbe 0) 0x00])) (fun _ => true) = true := by decide

/-- Both sides of the limit (V38). -/
theorem witness_CstepsCountsAndCarriesTheResidual :
    fresh.seq.busy = false ∧
    (IsNearest 4294967295 (((268435456 - 1 / 16) - 0) / stepRes .spark) ∧ max 0 (4294967295 : Int) < 2 ^ 32) ∧
    (IsNearest 4294967296 ((268435456 - 0) / stepRes .spark) ∧ 2 ^ 32 ≤ max 0 (4294967296 : Int)) := by decide +kernel

/-- A reversal, an unchanged direction with its count (V31, row 2), and a residual of 0. -/
theorem witness_ReversalNegatesTheResidualOnce :
    (stored fresh (-1 / 40) .cw).seq.busy = false ∧ ((stored fresh (-1 / 40) .cw).off.get .kysan).prevDir ≠ .ccw ∧
    ((stored fresh (-1 / 40) .cw).off.get .kysan).prevDir = .cw ∧
    nextIs (exec (.csteps .kysan .cw) (stored fresh (-1 / 40) .cw)) (fun _ => true) = true ∧
    222 = roundNearest ((25 - (-1 / 40)) / stepRes .kysan) ∧ (fresh.off.get .kysan).residual = 0 := by decide +kernel

theorem witness_CstepsIgnoresTheOtherMotor :
    (ports 25 0 0).seq.busy = false ∧ nextIs (exec (.csteps .kysan .cw) (ports 25 0 0)) (fun _ => true) = true := by
  decide +kernel

/-- V34, call 3: the residual at its bound. -/
theorem witness_PositiveAngleGivesNoNegativeCount :
    |({ residual := 1 / 32, prevDir := .cw } : MotorOffset).residual| ≤ stepRes .spark / 2 ∧ (0 : Q) < 1 / 64 := by
  decide +kernel

/-- V36, with a speed for the MOVE. -/
theorem witness_NegativeCountIsClampedNotAnError :
    (stored (ports (-1) 45 0) (-1 / 40) .cw).seq.busy = false ∧
    roundedSteps .kysan .cw (-1) ((stored (ports (-1) 45 0) (-1 / 40) .cw).off.get .kysan) < 0 ∧
    stepPeriod .kysan 45 = some 2500000 ∧ |(-1 / 40 : Q)| ≤ stepRes .kysan / 2 := by decide +kernel

/-- The bound itself, and the residual 0. -/
theorem witness_SameDirectionMovesDoNotDrift :
    |({ residual := 9 / 160, prevDir := .cw } : MotorOffset).residual| ≤ stepRes .kysan / 2 ∧
    MotorOffset.afterReset.residual = 0 := by decide +kernel

/-- Units of 1/80 degree (41_stepper_compute.md R124), a residual of -2 units. -/
theorem witness_FixedPointCstepsIsExact :
    (0 : Q) < 1 / 80 ∧ (0 : Int) < 9 ∧ stepRes .kysan = (9 : Int) * (1 / 80 : Q) ∧
    ({ residual := -1 / 40, prevDir := .cw } : MotorOffset).residual = (-2 : Int) * (1 / 80 : Q) := by decide +kernel

/-- Both clauses (V40). -/
theorem witness_CperiodGivesTheRoundedPeriod :
    (ports 0 (3 / 2) 0).seq.busy = false ∧ 0 < (ports 0 (3 / 2) 0).operands.speed ∧
    IsNearest 41666667 (nsPerS / (3 / 2) * stepRes .spark) ∧ (41666667 : Int) < 2 ^ 32 ∧
    0 < (ports 0 (1 / 100) 0).operands.speed ∧ IsNearest 6250000000 (nsPerS / (1 / 100) * stepRes .spark) ∧
    2 ^ 32 ≤ (6250000000 : Int) := by decide +kernel

/-- Each clause at its boundary, on both sides (V40; 41_stepper_compute.md R126). -/
theorem witness_PeriodIsZeroOrOverflowsAtTheStatedSpeeds :
    (stepPeriod .spark 125000001 = some 0 ∧ 2 * nsPerS * stepRes .spark < 125000001) ∧
    (stepPeriod .spark 125000000 = some 1 ∧ ¬ 2 * nsPerS * stepRes .spark < 125000000) ∧
    (stepPeriod .spark (125000000 / 8589934591) = none ∧
      8589934591 / 2 ≤ nsPerS * stepRes .spark / (125000000 / 8589934591)) ∧
    (stepPeriod .spark (125000000 / 8589934590) = some 4294967295) := by decide +kernel

/-- A speed of 0, and a positive one with which both operations complete. -/
theorem witness_InvalidArgumentExactlyForNonPositiveSpeed :
    (ports 25 0 0).seq.busy = false ∧ (ports 25 0 0).operands.speed ≤ 0 ∧ 0 < (ports 25 90 0).operands.speed ∧
    nextIs (exec (.cperiod .spark) (ports 25 90 0)) (fun _ => true) = true ∧
    nextIs (exec (.move .spark .cw) (ports 25 90 0)) (fun _ => true) = true ∧
    nextIs (exec (.csteps .spark .cw) (ports 25 90 0)) (fun _ => true) = true ∧
    nextIs (exec (.sample true) (ports 25 90 0)) (fun _ => true) = true ∧
    nextIs (exec .setlvl (ports 25 90 0)) (fun _ => true) = true := by decide +kernel

/-- A step that runs a CSTEPS from a residual at its bound. -/
theorem witness_StepKeepsResidualBound :
    (scripted (stored (ports 25 0 0) (9 / 160) .cw) [.present .smc 0x22]).residualsOk ∧
    nextIs (step (scripted (stored (ports 25 0 0) (9 / 160) .cw) [.present .smc 0x22])) (fun _ => true) = true := by
  refine ⟨fun m => ?_, by decide +kernel⟩
  cases m <;> decide +kernel

/-- V50, and the largest count (V38). -/
theorem witness_MoveIsAcceptedWithCountAndPeriod :
    (ports (1 / 4) 45 0).seq.busy = false ∧ 0 < (ports (1 / 4) 45 0).operands.speed ∧
    IsNearest 2500000 (nsPerS / 45 * stepRes .kysan) ∧ (2500000 : Int) < 2 ^ 32 ∧
    2 = roundedSteps .kysan .cw (1 / 4) ((ports (1 / 4) 45 0).off.get .kysan) ∧ (2 : Int) < 2 ^ 32 ∧
    4294967295 = roundedSteps .spark .cw (268435456 - 1 / 16) (fresh.off.get .spark) := by decide +kernel

/-- Each clause: the speed 0 with a count that would overflow, the speed at which the period overflows, the count. -/
theorem witness_MoveTestsComeBeforeEveryEffect :
    (ports 268435456 0 0).seq.busy = false ∧ (ports 268435456 0 0).operands.speed ≤ 0 ∧
    (0 < (125000000 / 8589934591 : Q) ∧ 8589934591 / 2 ≤ nsPerS * stepRes .spark / (125000000 / 8589934591)) ∧
    (0 < (90 : Q) ∧ nsPerS * stepRes .spark / 90 < 8589934591 / 2 ∧
      2 ^ 32 ≤ roundedSteps .spark .cw 268435456 ((ports 268435456 90 0).off.get .spark)) := by decide +kernel

theorem witness_MoveAgreesWithSeparateOperations :
    (ports 25 90 0).seq.busy = false ∧ 0 < (ports 25 90 0).operands.speed ∧
    nextIs (exec (.move .kysan .cw) (ports 25 90 0)) (fun _ => true) = true ∧
    nextIs (exec (.csteps .kysan .cw) (ports 25 90 0)) (fun _ => true) = true ∧
    nextIs (exec (.cperiod .kysan) (ports 25 90 0)) (fun _ => true) = true := by decide +kernel

/-- Each of the five points. -/
theorem witness_LineActionsWriteOneLineInOrder :
    ∀ pt ∈ [SeqPoint.enable, .direction, .raise, .lower, .disable],
      (moving pt .low 0 0).seq.busy = true ∧ (moving pt .low 0 0).seq.point = pt := by decide

/-- Both clauses, the first at equality with the last value read. -/
theorem witness_PulseStartsWithItsClockRead :
    (moving .start .low 0 7).seq.busy = true ∧ (moving .start .low 0 7).seq.point = .start ∧
    (0 ≤ (7 : Timestamp).toInt ∧ (moving .start .low 0 7).lastTime.toInt ≤ (7 : Timestamp).toInt) ∧
    (6 : Timestamp).toInt < (moving .start .low 0 7).lastTime.toInt ∧ (-1 : Timestamp).toInt < 0 := by decide

/-- Both phases, each at its bound and one below it (V50), and an answer below the last one. -/
theorem witness_WaitEndsAtTheFirstReadAtItsBound :
    (moving .wait .high 1000 1000).seq.busy = true ∧ (moving .wait .high 1000 1000).seq.point = .wait ∧
    (1250999 : Timestamp).toInt - 1000 < 1250000 ∧ (1250000 : Int) ≤ (1251000 : Timestamp).toInt - 1000 ∧
    (moving .wait .low 1000 1000).seq.phase = .low ∧
    (2500999 : Timestamp).toInt - 1000 < 2500000 ∧ (2500000 : Int) ≤ (2501000 : Timestamp).toInt - 1000 ∧
    (999 : Timestamp).toInt < (moving .wait .high 1000 1000).lastTime.toInt := by decide

theorem witness_MoveRunsToItsEnd :
    accepted.seq.busy = true ∧ accepted.seq.point = .enable ∧ accepted.seq.remaining.toNat = pulses.length ∧
    timesMeet accepted.seq.period accepted.lastTime pulses ∧
    accepted.script = .smcTurn 0 :: .smcTurn 0 :: (pulses.flatMap PulseTimes.turns ++ .smcTurn 0 :: []) := by
  refine ⟨rfl, rfl, rfl, ?_, rfl⟩
  simp only [pulses, timesMeet]
  decide

/-- A move with its motor enabled and the line high, at the action that lowers it. -/
theorem witness_StepKeepsLinesInOrder :
    (scripted (((moving .lower .high 0 0).pinWrite .kysan .en true).pinWrite .kysan .step true) [.smcTurn 0]).linesOk ∧
    nextIs (step (scripted (((moving .lower .high 0 0).pinWrite .kysan .en true).pinWrite .kysan .step true) [.smcTurn 0]))
      (fun t => t.seq.point == .wait) = true :=
  ⟨⟨⟨rfl, rfl⟩, ⟨rfl, rfl, rfl, by decide⟩, rfl⟩, by decide⟩

theorem witness_StepKeepsTheClockMonotonic :
    (scripted (moving .wait .high 1000 1000) [.smcTurn 500000]).clockOk ∧
    nextIs (step (scripted (moving .wait .high 1000 1000) [.smcTurn 500000])) (fun t => t.lastTime == 500000) = true :=
  ⟨⟨by decide, fun _ _ => by decide⟩, by decide⟩

/-- Each of the three ways: reset, going on, and the last action. -/
theorem witness_OnlyItsEndOrResetEndsAMove :
    nextIs (step (scripted (moving .start .low 0 0) [.rst])) (fun t => !t.seq.busy) = true ∧
    nextIs (step (scripted (moving .start .low 0 0) [.smcTurn 5])) (fun t => t.seq.busy) = true ∧
    nextIs (step (scripted (moving .disable .low 0 0) [.smcTurn 5])) (fun t => !t.seq.busy) = true := by decide

/-- Each clause at its boundaries. -/
theorem witness_SetlvlDrivesThePwmSink :
    (ports 0 0 0).operands.percent = 0 ∧ (0 < (ports 0 0 1).operands.percent ∧ (ports 0 0 1).operands.percent ≤ 100) ∧
    (ports 0 0 100).operands.percent ≤ 100 ∧ 100 < (ports 0 0 101).operands.percent := by decide

theorem witness_StepKeepsPwmInRange :
    (scripted (ports 0 0 100) [.present .brt 0x80]).pwmOk ∧
    nextIs (step (scripted (ports 0 0 100) [.present .brt 0x80])) (fun t => t.pwm.duty == 1) = true := by decide +kernel

theorem witness_StepKeepsTheBuild : nextIs (step fresh) (fun _ => true) = true := by decide

/-- A SAMPLE with another block's operation and with a SAMPLE of the other unit, SETLVL with an operation of the SMC, and
both with an action of a running move. -/
theorem witness_IndependentBlocksCommute :
    nextIs (exec (.sample true) fresh) (fun _ => true) = true ∧ nextIs (exec .setlvl fresh) (fun _ => true) = true ∧
    1 ≠ fresh.target ∧ nextIs (exec (.sample false) { fresh with target := 1 }) (fun _ => true) = true ∧
    nextIs (exec (.cperiod .spark) fresh) (fun _ => true) = true ∧
    nextIs (exec (.sample true) (moving .raise .low 0 0)) (fun _ => true) = true ∧
    nextIs (exec .setlvl (moving .raise .low 0 0)) (fun _ => true) = true ∧
    nextIs ((moving .raise .low 0 0).smcTurn 0) (fun _ => true) = true := by decide +kernel

theorem witness_EachOperationWritesItsOwnBlock :
    nextIs (exec (.cperiod .spark) fresh) (fun _ => true) = true := by decide +kernel

end Sys2Proof.Tests
end

section
/-! PROOFS. The motor offset entry as CSTEPS uses it (10_state.md R28): the stored direction matters only through the
residual that the operation carries. -/

namespace Sys2Proof

@[simp] theorem PerMotor.set_set {α : Type} (p : PerMotor α) (m : Motor) (x y : α) :
    (p.set m x).set m y = p.set m y := by
  cases m <;> rfl

end Sys2Proof

namespace Sys2Proof.Machine

variable {m : Motor} {d : Dir} {s : State} {o o' : MotorOffset}

/-- CSTEPS on an idle SMC with a count that fits completes (41_stepper_compute.md R121). -/
theorem exec_csteps_of_some {c : Count} (hb : s.seq.busy = false)
    (hc : stepCount m d s.operands.angle (s.off.get m) = some c) :
    exec (.csteps m d) s =
      .next ((s.putOffset m (nextOffset m d s.operands.angle (s.off.get m))).report .ok (some c) none) := by
  simp [exec, execCsteps, hb, hc]

/-- CSTEPS on an idle SMC with a count that does not fit is refused (41_stepper_compute.md R129). -/
theorem exec_csteps_of_none (hb : s.seq.busy = false)
    (hc : stepCount m d s.operands.angle (s.off.get m) = none) :
    exec (.csteps m d) s = .refused .stepCountOverflow := by
  simp [exec, execCsteps, hb, hc]

theorem carriedResidual_eq_zero (h : o.residual = 0) : carriedResidual d o = 0 := by
  simp [carriedResidual, h]

theorem rawSteps_congr (a : Q) (h : carriedResidual d o = carriedResidual d o') :
    rawSteps m d a o = rawSteps m d a o' := by
  simp only [rawSteps, h]

theorem stepCount_congr (a : Q) (h : carriedResidual d o = carriedResidual d o') :
    stepCount m d a o = stepCount m d a o' := by
  simp only [stepCount, roundedSteps, rawSteps_congr a h]

theorem nextOffset_congr (a : Q) (h : carriedResidual d o = carriedResidual d o') :
    nextOffset m d a o = nextOffset m d a o' := by
  simp only [nextOffset, roundedSteps, rawSteps_congr a h]

/-- CSTEPS sees its entry through the carried residual only: another entry with the same one gives the same outcome. -/
theorem exec_csteps_putOffset (hb : s.seq.busy = false)
    (h : carriedResidual d o = carriedResidual d (s.off.get m)) :
    exec (.csteps m d) (s.putOffset m o) = exec (.csteps m d) s := by
  have hb' : (s.putOffset m o).seq.busy = false := hb
  have hcount : stepCount m d (s.putOffset m o).operands.angle ((s.putOffset m o).off.get m) =
      stepCount m d s.operands.angle (s.off.get m) := by
    simpa using stepCount_congr s.operands.angle h
  cases hc : stepCount m d s.operands.angle (s.off.get m) with
  | none => rw [exec_csteps_of_none hb hc, exec_csteps_of_none hb' (hcount.trans hc)]
  | some c =>
    rw [exec_csteps_of_some hb hc, exec_csteps_of_some hb' (hcount.trans hc)]
    simp [State.putOffset, nextOffset_congr s.operands.angle h]

/-- A reversal finds the stored residual negated once (10_state.md R28). -/
theorem exec_csteps_reversed (hb : s.seq.busy = false) (hd : (s.off.get m).prevDir ≠ d) :
    exec (.csteps m d) s =
      exec (.csteps m d) (s.putOffset m { residual := -(s.off.get m).residual, prevDir := d }) := by
  refine (exec_csteps_putOffset hb ?_).symm
  calc carriedResidual d { residual := -(s.off.get m).residual, prevDir := d }
      = -(s.off.get m).residual := carriedResidual_same rfl
    _ = carriedResidual d (s.off.get m) := (carriedResidual_reversed hd.symm).symm

/-- The count and the residual of a completed CSTEPS, by the residual that it carries (41_stepper_compute.md R121, R122). -/
theorem exec_csteps_next_idle {t : State} (hb : s.seq.busy = false) (h : exec (.csteps m d) s = .next t) :
    (t.results.stepCount.toNat : Int) = max 0 (roundedSteps m d s.operands.angle (s.off.get m)) ∧
    (t.off.get m).residual = roundedSteps m d s.operands.angle (s.off.get m) * stepRes m -
      (s.operands.angle - carriedResidual d (s.off.get m)) := by
  rcases execCsteps_next h with ⟨hbusy, -⟩ | ⟨-, c, hc, rfl⟩
  · rw [hb] at hbusy
    cases hbusy
  · have hn : c.toNat = (roundedSteps m d s.operands.angle (s.off.get m)).toNat := toCount_some hc
    constructor
    · simp only [State.report_results, Option.getD_some]
      omega
    · simpa using nextOffset_residual m d s.operands.angle (s.off.get m)

/-- With a residual of 0 the stored direction makes no difference (10_state.md R28). -/
theorem exec_csteps_of_residual_zero (hb : s.seq.busy = false) (h0 : (s.off.get m).residual = 0) :
    exec (.csteps m d) s = exec (.csteps m d) (s.putOffset m { residual := 0, prevDir := d }) := by
  refine (exec_csteps_putOffset hb ?_).symm
  exact (carriedResidual_eq_zero rfl).trans (carriedResidual_eq_zero h0).symm

/-- Settles O30: the reversal and the residual of 0 each leave the carried residual as it is, which is all that CSTEPS
sees of its entry; in an unchanged direction the carried residual is the stored one. -/
theorem reversalNegatesTheResidualOnce : Obligations.ReversalNegatesTheResidualOnce := by
  intro s m d hb
  refine ⟨exec_csteps_reversed hb, fun hd t n ht hn => ?_, exec_csteps_of_residual_zero hb⟩
  have hcarried : carriedResidual d (s.off.get m) = (s.off.get m).residual := carriedResidual_same hd.symm
  have hrounded : roundedSteps m d s.operands.angle (s.off.get m) = n := by
    rw [hn, roundedSteps, rawSteps, hcarried]
  simpa only [hrounded, hcarried] using exec_csteps_next_idle hb ht

end Sys2Proof.Machine
end

section
/-! PROOFS. The two tests of SAMPLE, one for each state before it (40_debounce.md R101, R102). -/

namespace Sys2Proof.Machine

section

variable (b : Config.Build) (d : Dbe) (r : Bool)

/-- SAMPLE reports each edge exactly at its transition: row by row of the state table (40_debounce.md R111, R114). -/
theorem Dbe.sample_ev_edge_iff :
    ((d.sample b r).ev = .released ↔ d.debouncedState = .pressed ∧ (d.sample b r).debouncedState = .released) ∧
    ((d.sample b r).ev = .pressed ↔ d.debouncedState = .released ∧ (d.sample b r).debouncedState = .pressed) := by
  obtain ⟨hd, -, hst, hev⟩ | ⟨hd, -, hst, hev⟩ | ⟨hd, -, hst, hev⟩ | ⟨hd, -, hst, hev | hev⟩ := Dbe.sample_cases b d r
  all_goals simp [hd, hst, hev]

/-- A SAMPLE that keeps the state reports no edge (40_debounce.md R111). -/
theorem Dbe.sample_isEdge_eq_false (h : (d.sample b r).debouncedState = d.debouncedState) :
    (d.sample b r).ev.isEdge = false := by
  obtain ⟨hreleased, hpressed⟩ := Dbe.sample_ev_edge_iff b d r
  have hr : (d.sample b r).ev ≠ .released := by simp +contextual [hreleased, h]
  have hp : (d.sample b r).ev ≠ .pressed := by simp +contextual [hpressed, h]
  simp [Event.isEdge, hp, hr]

end

/-- Settles O15: the bits are those of the shift; the released state has the two rows of the press test in the state
table, and `Pressed` is reported from the released state only. -/
theorem sampleInReleasedStateIsThePressTest : Obligations.SampleInReleasedStateIsThePressTest := by
  intro s d r hd
  refine ⟨d.sample s.build r, exec_sample_of hd r, shiftIn_getLsbD _ r 7 (by decide), fun i hi => ?_,
    fun hrel => ⟨fun hle => ?_, fun hlt => ?_⟩, fun hpr hev => ?_⟩
  · rw [Dbe.sample_shiftRegister, shiftIn_getLsbD _ r i (by omega), if_neg (by omega)]
  · simp [Dbe.sample_press hrel (BitVec.le_def.mpr hle)]
  · simp [Dbe.sample_stayReleased hrel (BitVec.not_le.mpr (BitVec.lt_def.mpr hlt))]
  · obtain ⟨hrel, -⟩ := (Dbe.sample_ev_edge_iff s.build d r).2.mp hev
    simp [hrel] at hpr

/-- Settles O16: the pressed state has the two rows of the release test in the state table, and in every row the event is
the transition made. -/
theorem sampleInPressedStateIsTheReleaseTest : Obligations.SampleInPressedStateIsTheReleaseTest := by
  intro s d r hd
  refine ⟨d.sample s.build r, exec_sample_of hd r, shiftIn_toNat _ r, fun hpr => ⟨fun hle => ?_, fun hlt => ?_⟩,
    Dbe.sample_ev_edge_iff s.build d r⟩
  · simp [Dbe.sample_release hpr (BitVec.le_def.mpr hle)]
  · have hst : (d.sample s.build r).debouncedState = .pressed := by
      simp [Dbe.sample_stayPressed hpr (BitVec.not_le.mpr (BitVec.lt_def.mpr hlt))]
    exact ⟨hst, Dbe.sample_isEdge_eq_false _ d r (hst.trans hpr.symm)⟩

end Sys2Proof.Machine
end

section
/-! PROOFS. SETLVL over the whole range of its level (43_brightness.md R160, R161). -/

namespace Sys2Proof.Machine

/-- SETLVL of a level above 100 is refused (43_brightness.md R161). -/
theorem exec_setlvl_of_gt {s : State} (h : 100 < s.operands.percent) :
    exec .setlvl s = .refused .percentOutOfRange := by
  simp only [exec, execSetlvl, if_pos h]

/-- Settles O50: a level up to 100 replaces the PWM sink and nothing else, as `exec_setlvl_of` says, by its branch at 0 or
the other one; a level above 100 has no meaning. -/
theorem setlvlDrivesThePwmSink : Obligations.SetlvlDrivesThePwmSink := by
  intro s
  refine ⟨fun h0 => ?_, fun hpos h100 => ?_, exec_setlvl_of_gt, by decide⟩
  · rw [exec_setlvl_of (h0.trans_le (Nat.zero_le 100)), if_pos h0]
  · rw [exec_setlvl_of h100, if_neg hpos.ne', dutyOf]

end Sys2Proof.Machine
end

section
/-! PROOFS. The abnormal outcomes of the SMC (60_exceptions.md R172, R174): the negative count, which is a result, and the
speed that is not positive, which is the one error. -/

namespace Sys2Proof.Machine

section

variable {m : Motor} {d : Dir} {s t : State} {a : Q} {o : MotorOffset}

/-- A negative count is answered as 0, and 0 fits (41_stepper_compute.md R121 step 7). -/
theorem stepCount_of_neg (hn : roundedSteps m d a o < 0) : stepCount m d a o = some 0 := by
  rw [stepCount, Int.toNat_of_nonpos hn.le]
  exact toCount_of_lt (by decide)

theorem rawSteps_mul_stepRes (m : Motor) (d : Dir) (a : Q) (o : MotorOffset) :
    rawSteps m d a o * stepRes m = a - carriedResidual d o :=
  div_mul_cancel₀ _ (stepRes_pos m).ne'

/-- A reversal keeps the size of the residual (10_state.md R28). -/
theorem abs_carriedResidual (d : Dir) (o : MotorOffset) : |carriedResidual d o| = |o.residual| := by
  by_cases h : d = o.prevDir
  · rw [carriedResidual_same h]
  · rw [carriedResidual_reversed h, abs_neg]

/-- A negative count is at least half a step below zero before it is rounded (00_scope.md R12). -/
theorem rawSteps_le_of_neg (hn : roundedSteps m d a o < 0) : rawSteps m d a o ≤ -(1 / 2) := by
  have hround := (abs_le.mp (roundNearest_abs (rawSteps m d a o))).1
  have hle : (roundedSteps m d a o : Q) ≤ -1 := by exact_mod_cast Int.le_sub_one_of_lt hn
  rw [roundedSteps] at hle
  linarith

/-- With the residual in its bound a count is negative only for an angle that is not positive: the residual cannot bring
more than the half step by which the unrounded count is below zero (41_stepper_compute.md R123). -/
theorem angle_nonpos_of_neg (hn : roundedSteps m d a o < 0) (ho : |o.residual| ≤ stepRes m / 2) : a ≤ 0 := by
  have hcarried : carriedResidual d o ≤ stepRes m / 2 :=
    (le_abs_self _).trans ((abs_carriedResidual d o).trans_le ho)
  calc a = rawSteps m d a o * stepRes m + carriedResidual d o := by rw [rawSteps_mul_stepRes, sub_add_cancel]
    _ ≤ -(1 / 2) * stepRes m + stepRes m / 2 :=
      add_le_add (mul_le_mul_of_nonneg_right (rawSteps_le_of_neg hn) (stepRes_pos m).le) hcarried
    _ = 0 := by ring

/-- MOVE on an idle SMC with a positive speed, a period and a count that fit is accepted (42_stepper_move.md R140). -/
theorem exec_move_of_some {p c : Count} (hb : s.seq.busy = false) (hs : 0 < s.operands.speed)
    (hp : stepPeriod m s.operands.speed = some p)
    (hc : stepCount m d s.operands.angle (s.off.get m) = some c) :
    exec (.move m d) s = .next (s.accepted m d p c) := by
  simp [exec, execMove, hb, hs.not_ge, hp, hc]

/-- Taking `InvalidArgument` writes results and draws only (60_exceptions.md R171). -/
theorem State.raiseInvalidArgument_frame (s : State) :
    s.sameKept s.raiseInvalidArgument ∧ s.sameInputs s.raiseInvalidArgument := by
  simp [State.sameKept, State.sameInputs]

/-- CPERIOD of a speed that is not positive raises `InvalidArgument` (60_exceptions.md R172). -/
theorem exec_cperiod_of_nonpos (hb : s.seq.busy = false) (hs : s.operands.speed ≤ 0) :
    exec (.cperiod m) s = .next s.raiseInvalidArgument := by
  simp [exec, execCperiod, hb, hs]

/-- MOVE at a speed that is not positive raises `InvalidArgument` before it computes anything (60_exceptions.md R172,
42_stepper_move.md R152). -/
theorem exec_move_of_nonpos (hb : s.seq.busy = false) (hs : s.operands.speed ≤ 0) :
    exec (.move m d) s = .next s.raiseInvalidArgument := by
  simp [exec, execMove, hb, hs]

/-- CPERIOD of a positive speed, when it completes, answers no error (60_exceptions.md R172). -/
theorem exec_cperiod_err (hb : s.seq.busy = false) (hs : 0 < s.operands.speed) (h : exec (.cperiod m) s = .next t) :
    t.results.err = .ok := by
  obtain ⟨hbusy, -⟩ | ⟨-, hle, -⟩ | ⟨-, -, p, -, rfl⟩ := execCperiod_next h
  · simp [hb] at hbusy
  · exact absurd hle hs.not_ge
  · simp

/-- MOVE at a positive speed, when it answers a next state, has been accepted (60_exceptions.md R172). -/
theorem exec_move_busy (hb : s.seq.busy = false) (hs : 0 < s.operands.speed) (h : exec (.move m d) s = .next t) :
    t.seq.busy = true := by
  obtain ⟨hbusy, -⟩ | ⟨-, hle, -⟩ | ⟨-, -, p, c, -, -, rfl⟩ := execMove_next h
  · simp [hb] at hbusy
  · exact absurd hle hs.not_ge
  · rfl

/-- CSTEPS on an idle SMC, when it completes, answers no error (60_exceptions.md R170 (d)). -/
theorem exec_csteps_err (hb : s.seq.busy = false) (h : exec (.csteps m d) s = .next t) : t.results.err = .ok := by
  obtain ⟨hbusy, -⟩ | ⟨-, c, -, rfl⟩ := execCsteps_next h
  · simp [hb] at hbusy
  · simp

/-- SAMPLE writes no result of the SMC (40_debounce.md R100). -/
theorem exec_sample_results {r : Bool} (h : exec (.sample r) s = .next t) : t.results = s.results := by
  obtain ⟨u, -, rfl⟩ := execSample_next h
  simp

/-- SETLVL writes no result of the SMC (43_brightness.md R160). -/
theorem exec_setlvl_results (h : exec .setlvl s = .next t) : t.results = s.results := by
  obtain ⟨-, rfl⟩ | ⟨-, -, rfl⟩ := execSetlvl_next h <;> simp

end

/-- Settles O33: the clamped count is 0, which fits, so that CSTEPS completes with it and MOVE is accepted with it; and a
residual in its bound makes up for half a step at most. -/
theorem negativeCountIsClampedNotAnError : Obligations.NegativeCountIsClampedNotAnError := by
  intro s m d hb hn
  have hc := stepCount_of_neg hn
  refine ⟨⟨_, exec_csteps_of_some hb hc, ?_, ?_, ?_⟩,
    fun p hs hp => ⟨_, exec_move_of_some hb hs hp hc, rfl, rfl, ?_, rfl⟩, angle_nonpos_of_neg hn⟩
  all_goals simp [State.accepted]

/-- Settles O38: at a speed that is not positive both operations end in the same `InvalidArgument`, which writes results
only; every other completion is one of the cases of its operation, none of which raises it. -/
theorem invalidArgumentExactlyForNonPositiveSpeed : Obligations.InvalidArgumentExactlyForNonPositiveSpeed := by
  intro s m d hb
  refine ⟨fun hs => ⟨s.raiseInvalidArgument, exec_cperiod_of_nonpos hb hs, exec_move_of_nonpos hb hs, by simp,
      s.raiseInvalidArgument_frame⟩,
    fun hs t => ⟨exec_cperiod_err hb hs, exec_move_busy hb hs⟩, fun t => exec_csteps_err hb, fun t r h => ?_⟩
  obtain h | h := h
  · rw [exec_sample_results h]
  · rw [exec_setlvl_results h]

end Sys2Proof.Machine
end

section
/-! PROOFS. What each operation and each action of a move leaves unchanged: the next state written as the state before
with the few fields that the operation writes (10_state.md sections 1 to 7). -/

namespace Sys2Proof.Machine

variable {i : Instr} {m : Motor} {d : Dir} {r : Bool} {s t : State} {now : Timestamp}

/-- SAMPLE writes one unit (10_state.md R20). -/
theorem exec_sample_writes (h : exec (.sample r) s = .next t) :
    ∃ u, s.dbe[s.target]? = some u ∧ t = { s with dbe := s.dbe.set s.target (u.sample s.build r) } :=
  execSample_next h

/-- SETLVL writes the PWM sink (43_brightness.md R160). -/
theorem exec_setlvl_writes (h : exec .setlvl s = .next t) : ∃ p, t = { s with pwm := p } := by
  obtain ⟨-, rfl⟩ | ⟨-, -, rfl⟩ := execSetlvl_next h
  · exact ⟨_, rfl⟩
  · exact ⟨_, rfl⟩

/-- CSTEPS writes the entry of its motor and the results, or waits (41_stepper_compute.md R121). -/
theorem exec_csteps_writes (h : exec (.csteps m d) s = .next t) :
    ∃ o rs k c, t = { s with off := s.off.set m o, results := rs, draws := k, held := c } := by
  obtain ⟨-, rfl⟩ | ⟨-, c, -, rfl⟩ := execCsteps_next h
  · exact ⟨s.off.get m, s.results, s.draws, _, by rw [PerMotor.set_get]; rfl⟩
  · exact ⟨_, _, _, s.held, rfl⟩

/-- CPERIOD writes the results, or waits (41_stepper_compute.md R125). -/
theorem exec_cperiod_writes (h : exec (.cperiod m) s = .next t) :
    ∃ rs k c, t = { s with results := rs, draws := k, held := c } := by
  obtain ⟨-, rfl⟩ | ⟨-, -, rfl⟩ | ⟨-, -, p, -, rfl⟩ := execCperiod_next h
  · exact ⟨s.results, s.draws, _, rfl⟩
  · exact ⟨_, _, s.held, rfl⟩
  · exact ⟨_, _, s.held, rfl⟩

/-- MOVE writes the entry of its motor, the sequencer and the results, or waits (42_stepper_move.md R140). -/
theorem exec_move_writes (h : exec (.move m d) s = .next t) :
    ∃ o q rs k c, t = { s with off := s.off.set m o, seq := q, results := rs, draws := k, held := c } := by
  obtain ⟨-, rfl⟩ | ⟨-, -, rfl⟩ | ⟨-, -, p, c, -, -, rfl⟩ := execMove_next h
  · exact ⟨s.off.get m, s.seq, s.results, s.draws, _, by rw [PerMotor.set_get]; rfl⟩
  · exact ⟨s.off.get m, s.seq, _, _, s.held, by rw [PerMotor.set_get]; rfl⟩
  · exact ⟨_, _, s.results, s.draws, s.held, rfl⟩

/-- An operation of the SMC writes nothing of the two other blocks (20_memory.md R60). -/
theorem exec_smc_writes (hi : i.wellFormedAt .smc = true) (h : exec i s = .next t) :
    ∃ o q rs k c, t = { s with off := o, seq := q, results := rs, draws := k, held := c } := by
  cases i with
  | sample r => cases hi
  | setlvl => cases hi
  | csteps m d =>
    obtain ⟨o, rs, k, c, rfl⟩ := exec_csteps_writes h
    exact ⟨_, s.seq, rs, k, c, rfl⟩
  | cperiod m =>
    obtain ⟨rs, k, c, rfl⟩ := exec_cperiod_writes h
    exact ⟨s.off, s.seq, rs, k, c, rfl⟩
  | move m d =>
    obtain ⟨o, q, rs, k, c, rfl⟩ := exec_move_writes h
    exact ⟨_, q, rs, k, c, rfl⟩

/-- `State.moveAction_next` as an elimination rule, one named case per action, with the two ends of a clock read in a wait
apart: what holds of the outcome of each action holds of the next state (42_stepper_move.md R141). -/
theorem State.moveAction_elim {motive : State → Prop} (h : s.moveAction now = .next t)
    (enable : s.seq.point = .enable →
      motive ((s.pinWrite s.seq.motor .en true).putSeq { s.seq with point := .direction }))
    (direction : s.seq.point = .direction →
      motive ((s.pinWrite s.seq.motor .dir s.seq.dir.bit).putSeq { s.seq with point := loopPoint s.seq.remaining }))
    (start : s.seq.point = .start → 0 ≤ now.toInt → s.lastTime.toInt ≤ now.toInt →
      motive { s with lastTime := now, seq := { s.seq with t0 := now, point := .raise } })
    (raise : s.seq.point = .raise →
      motive ((s.pinWrite s.seq.motor .step true).putSeq { s.seq with phase := .high, point := .wait }))
    (waiting : s.seq.point = .wait → 0 ≤ now.toInt → s.lastTime.toInt ≤ now.toInt →
      now.toInt - s.seq.t0.toInt < s.seq.bound → motive { s with lastTime := now })
    (reached : s.seq.point = .wait → 0 ≤ now.toInt → s.lastTime.toInt ≤ now.toInt →
      (s.seq.bound : Int) ≤ now.toInt - s.seq.t0.toInt → motive { s with lastTime := now, seq := s.seq.afterWait })
    (lower : s.seq.point = .lower →
      motive ((s.pinWrite s.seq.motor .step false).putSeq { s.seq with phase := .low, point := .wait }))
    (disable : s.seq.point = .disable →
      motive (((s.pinWrite s.seq.motor .en false).putSeq { s.seq with busy := false }).report .ok none none)) :
    motive t := by
  obtain ⟨hp, rfl⟩ | ⟨hp, rfl⟩ | ⟨hp, ⟨h0, h1⟩, rfl⟩ | ⟨hp, rfl⟩ | ⟨hp, ⟨h0, h1⟩, rfl⟩ | ⟨hp, rfl⟩ | ⟨hp, rfl⟩ :=
    State.moveAction_next h
  · exact enable hp
  · exact direction hp
  · exact start hp h0 h1
  · exact raise hp
  · split
    · next he => exact reached hp h0 h1 (of_decide_eq_true he)
    · next he => exact waiting hp h0 h1 (not_le.mp fun hle => he (decide_eq_true hle))
  · exact lower hp
  · exact disable hp

/-- An action of a move writes the lines, the sequencer, the clock's last value and the results
(42_stepper_move.md R141). -/
theorem State.moveAction_writes (h : s.moveAction now = .next t) :
    ∃ l q last rs k, t = { s with lines := l, seq := q, lastTime := last, results := rs, draws := k } := by
  refine State.moveAction_elim
    (motive := fun t => ∃ l q last rs k, t = { s with lines := l, seq := q, lastTime := last, results := rs, draws := k })
    h ?enable ?direction ?start ?raise ?waiting ?reached ?lower ?disable
  all_goals
    intros
    exact ⟨_, _, _, _, _, rfl⟩

/-- Settles O55: each operation's next state is the state before with its own fields written, and the fields that the
statement names are not among them. -/
theorem eachOperationWritesItsOwnBlock : Obligations.EachOperationWritesItsOwnBlock := by
  intro i s t h
  cases i with
  | sample r =>
    obtain ⟨u, -, rfl⟩ := exec_sample_writes h
    simp
  | setlvl =>
    obtain ⟨p, rfl⟩ := exec_setlvl_writes h
    simp
  | csteps m d =>
    obtain ⟨o, rs, k, c, rfl⟩ := exec_csteps_writes h
    refine ⟨rfl, rfl, rfl, rfl, rfl, fun _ => rfl, fun _ => rfl, fun _ => rfl, fun m' hm => ?_, by simp⟩
    exact PerMotor.get_set_other _ (by rintro rfl; exact (hm d).1 rfl) _
  | cperiod m =>
    obtain ⟨rs, k, c, rfl⟩ := exec_cperiod_writes h
    simp
  | move m d =>
    obtain ⟨o, q, rs, k, c, rfl⟩ := exec_move_writes h
    refine ⟨rfl, rfl, rfl, rfl, rfl, fun _ => rfl, fun _ => rfl, fun hm => absurd rfl (hm m d), fun m' hm => ?_,
      by simp⟩
    exact PerMotor.get_set_other _ (by rintro rfl; exact (hm d).2 rfl) _

end Sys2Proof.Machine
end

section
/-! PROOFS. The hold variant and the invariant of one unit: what one SAMPLE does to the counter, the register and the
event, in every row of the state table (10_state.md R23, R24; 40_debounce.md R103 to R105). -/

namespace Sys2Proof.Machine

section

variable (b : Config.Build) (d : Dbe) (r : Bool)

theorem Dbe.sample_holdCounter : (d.sample b r).holdCounter =
    if d.holdEnable then nextHold b d.debouncedState (d.sample b r).debouncedState d.holdCounter
    else d.holdCounter := rfl

/-- The counter is 0 where the new state is released or the state has changed (40_debounce.md R103). -/
theorem nextHold_of_edge {before after : Level} (hc : Nat) (h : after = .released ∨ after ≠ before) :
    nextHold b before after hc = 0 := by
  cases before <;> cases after <;> simp_all [nextHold]

theorem nextHold_lt {hc : Nat} (before after : Level) (hint : 1 ≤ b.holdInterval) :
    nextHold b before after hc < b.holdInterval := by
  by_cases h : after = .released ∨ after ≠ before
  · rwa [nextHold_of_edge b hc h]
  · obtain ⟨rfl, rfl⟩ : after = .pressed ∧ before = .pressed := by cases after <;> simp_all
    exact Nat.mod_lt _ hint

/-- The conditions of `StillPressed`: only the row that stays pressed can give it (40_debounce.md R104, R105). -/
theorem Dbe.sample_stillPressed_iff : (d.sample b r).ev = .stillPressed ↔
    d.holdEnable = true ∧ d.debouncedState = .pressed ∧ (d.sample b r).debouncedState = .pressed ∧
      (d.sample b r).shiftRegister = 0x00 ∧ (d.sample b r).holdCounter = 0 := by
  cases hd : d.debouncedState with
  | released =>
    by_cases h : shiftIn d.shiftRegister r ≤ b.pressThreshold
    · simp [Dbe.sample_press hd h]
    · simp [Dbe.sample_stayReleased hd h]
  | pressed =>
    by_cases h : b.releaseThreshold ≤ shiftIn d.shiftRegister r
    · simp [Dbe.sample_release hd h]
    · simp +contextual [Dbe.sample_stayPressed hd h]

end

/-- Settles O17: the counter is that of `nextHold`, which is 0 at every edge and in the released state, and `StillPressed`
has the four conditions of the row that stays pressed. -/
theorem sampleCountsAndRepeatsWhileHeld : Obligations.SampleCountsAndRepeatsWhileHeld := by
  intro s d r hd
  have hcount := Dbe.sample_holdCounter s.build d r
  have hstill := Dbe.sample_stillPressed_iff s.build d r
  refine ⟨d.sample s.build r, exec_sample_of hd r, rfl, fun he => ?_, fun he => ⟨fun hedge => ?_, fun hnew hold => ?_, ?_⟩⟩
  · simp [hcount, hstill, he]
  · rw [hcount, if_pos he, nextHold_of_edge _ _ hedge]
  · rw [hcount, if_pos he, hnew, hold, nextHold]
  · simp [hstill, he]

section

variable {b : Config.Build} {d : Dbe}

/-- The thresholds lie on both sides of 0x80, so a register that meets one test fails the other (40_debounce.md R109). -/
theorem press_lt_release (hthr : thresholdsOrdered b) : b.pressThreshold < b.releaseThreshold := by
  obtain ⟨hpress, hrelease⟩ := hthr
  bv_omega

/-- A SAMPLE keeps the ranges of the counter (10_state.md R24). -/
theorem Dbe.sample_counterOk (hint : 1 ≤ b.holdInterval) (hc : d.counterOk b) (r : Bool) :
    (d.sample b r).counterOk b := by
  obtain ⟨hlt, hplain, hreleased⟩ := hc
  cases he : d.holdEnable with
  | false =>
    have h0 : (d.sample b r).holdCounter = 0 := by simp [Dbe.sample_holdCounter, he, hplain he]
    exact ⟨h0.trans_lt hint, fun _ => h0, fun _ => h0⟩
  | true =>
    simp only [Dbe.counterOk, Dbe.sample_holdCounter, Dbe.sample_holdEnable, he, if_true]
    exact ⟨nextHold_lt b _ _ hint, by simp, fun hr => nextHold_of_edge b _ (.inl hr)⟩

/-- After a SAMPLE the state is on its side of the thresholds (10_state.md R23). -/
theorem Dbe.sample_stateOk (hthr : thresholdsOrdered b) (r : Bool) : (d.sample b r).stateOk b := by
  have hapart := press_lt_release hthr
  obtain ⟨-, h, hst, -⟩ | ⟨-, h, hst, -⟩ | ⟨-, h, hst, -⟩ | ⟨-, h, hst, -⟩ := Dbe.sample_cases b d r
  all_goals
    simp only [Dbe.stateOk, hst, Dbe.sample_shiftRegister, reduceCtorEq, forall_const, false_implies, true_and, and_true]
    bv_omega

/-- A SAMPLE reports `StillPressed` only in a unit with the hold variant (30_encoding.md R72). -/
theorem Dbe.sample_evOk (r : Bool) : (d.sample b r).evOk := fun h =>
  ((Dbe.sample_stillPressed_iff b d r).mp h).1

end

end Sys2Proof.Machine
end

section
/-! PROOFS. The invariants of the units, the build and the PWM sink (10_state.md R23, R24, R35; 20_memory.md section 3):
each is kept by the operation that writes what it speaks of, and every other part of a step leaves that alone. -/

namespace Sys2Proof.Machine

section

variable {i : Instr} {s t : State}

/-- The units change by a SAMPLE at one of them only (10_state.md R20). -/
theorem exec_dbe (h : exec i s = .next t) :
    t.dbe = s.dbe ∨
    ∃ r u, i = .sample r ∧ s.dbe[s.target]? = some u ∧ t.dbe = s.dbe.set s.target (u.sample s.build r) := by
  by_cases hi : ∃ r, i = .sample r
  · obtain ⟨r, rfl⟩ := hi
    obtain ⟨u, hu, rfl⟩ := exec_sample_writes h
    exact .inr ⟨r, u, rfl, hu, rfl⟩
  · obtain ⟨-, -, -, -, -, hdbe, -⟩ := eachOperationWritesItsOwnBlock i s t h
    exact .inl (hdbe (not_exists.mp hi))

theorem exec_build (h : exec i s = .next t) : t.build = s.build := by
  obtain ⟨-, hbuild, -⟩ := eachOperationWritesItsOwnBlock i s t h
  exact hbuild

/-- The expiry of an event leaves the variant of its unit (00_scope.md R6). -/
theorem State.expireResults_holdEnables (s : State) :
    s.expireResults.dbe.map Dbe.holdEnable = s.dbe.map Dbe.holdEnable := by
  refine List.ext_getElem? fun k => ?_
  cases hk : s.dbe[k]? <;> simp [hk]

/-- A SAMPLE leaves the variant of its unit (00_scope.md R6). -/
theorem exec_holdEnables (h : exec i s = .next t) : t.dbe.map Dbe.holdEnable = s.dbe.map Dbe.holdEnable := by
  obtain hdbe | ⟨r, u, -, hu, hdbe⟩ := exec_dbe h
  · rw [hdbe]
  · rw [hdbe, List.map_set, Dbe.sample_holdEnable]
    refine List.ext_getElem? fun k => ?_
    obtain ⟨hlt, rfl⟩ := List.getElem?_eq_some_iff.mp hu
    by_cases hk : s.target = k
    · simp [← hk, hlt]
    · simp [List.getElem?_set_ne hk]

end

end Sys2Proof.Machine
end

section
/-! PROOFS. The invariants of the build, the units and the PWM sink over every step (`step_keeps`): each is kept by the
one operation that writes what it speaks of. -/

namespace Sys2Proof.Machine

section

variable {i : Instr} {s t : State} {now : Timestamp}

theorem exec_keeps_unitsOk (hs : s.unitsOk) (h : exec i s = .next t) : t.unitsOk := by
  obtain ⟨hint, hthr, hne, hunits⟩ := hs
  rw [State.unitsOk, exec_build h]
  obtain hdbe | ⟨r, u, -, hu, hdbe⟩ := exec_dbe h
  · exact hdbe ▸ ⟨hint, hthr, hne, hunits⟩
  · rw [hdbe]
    refine ⟨hint, hthr, by simpa using hne, fun e he => ?_⟩
    obtain he | rfl := List.mem_or_eq_of_mem_set he
    · exact hunits e he
    · obtain ⟨hc, -, -⟩ := hunits u (List.mem_of_getElem? hu)
      exact ⟨Dbe.sample_counterOk hint hc r, Dbe.sample_stateOk hthr r, Dbe.sample_evOk r⟩

theorem State.expireResults_keeps_unitsOk (hs : s.unitsOk) : s.expireResults.unitsOk := by
  obtain ⟨hint, hthr, hne, hunits⟩ := hs
  refine ⟨hint, hthr, by simpa using hne, fun e he => ?_⟩
  obtain ⟨k, hk, rfl⟩ := List.mem_mapIdx.mp he
  obtain ⟨hc, hst, -⟩ := hunits _ (List.getElem_mem hk)
  exact ⟨hc, hst, Dbe.expire_stillPressed⟩

/-- A unit after reset is released with a full register, above every press threshold that is below 0x80. -/
theorem Dbe.afterReset_ok {b : Config.Build} (hint : 1 ≤ b.holdInterval) (hthr : thresholdsOrdered b) (v : Bool) :
    (Dbe.afterReset v).counterOk b ∧ (Dbe.afterReset v).stateOk b ∧ (Dbe.afterReset v).evOk := by
  have hlt : b.pressThreshold < Config.srReset := by
    obtain ⟨hpress, -⟩ := hthr
    simp only [Config.srReset]
    bv_omega
  refine ⟨⟨hint, fun _ => rfl, fun _ => rfl⟩, ⟨fun _ => hlt, fun h => ?_⟩, fun h => ?_⟩
  · cases h
  · cases h

theorem State.applyReset_keeps_unitsOk (hs : s.unitsOk) : s.applyReset.unitsOk := by
  obtain ⟨hint, hthr, hne, -⟩ := hs
  refine ⟨hint, hthr, by simpa using hne, fun e he => ?_⟩
  obtain ⟨u, -, rfl⟩ := List.mem_map.mp he
  exact Dbe.afterReset_ok hint hthr u.holdEnable

/-- SETLVL leaves a fraction, 0 where the channel is off (43_brightness.md R160). -/
theorem exec_setlvl_pwmOk (h : exec .setlvl s = .next t) : t.pwmOk := by
  obtain ⟨-, rfl⟩ | ⟨-, hle, rfl⟩ := execSetlvl_next h
  · simp [State.pwmOk]
  · have hle' : (s.operands.percent : Q) ≤ 100 := by exact_mod_cast hle
    exact ⟨div_nonneg (Nat.cast_nonneg _) (by norm_num), (div_le_one (by norm_num)).mpr hle', by simp⟩

theorem exec_keeps_pwmOk (hs : s.pwmOk) (h : exec i s = .next t) : t.pwmOk := by
  by_cases hi : i = .setlvl
  · subst hi
    exact exec_setlvl_pwmOk h
  · obtain ⟨-, -, -, -, -, -, hpwm, -⟩ := eachOperationWritesItsOwnBlock i s t h
    rwa [State.pwmOk, hpwm hi]

/-- The fields that no action of a move writes and that a property of the units, the entries or the PWM sink speaks of. -/
abbrev State.sameBlocks (s t : State) : Prop := t.build = s.build ∧ t.dbe = s.dbe ∧ t.off = s.off ∧ t.pwm = s.pwm

/-- An invariant of the units, the entries or the PWM sink, once for every step: the actions of a move leave it alone. -/
theorem step_keeps_blocks {P : State → Prop}
    (same : ∀ s t : State, s.sameBlocks t → P s → P t)
    (expire : ∀ s : State, P s → P s.expireResults)
    (reset : ∀ s : State, P s → P s.applyReset)
    (run : ∀ (i : Instr) (s t : State), P s → exec i s = .next t → P t)
    (hs : P s) (h : step s = .next t) : P t := by
  refine step_keeps (P := P) (fun u v hsame hu => ?_) expire reset run (fun u v now hu _ ha => ?_) hs h
  · obtain ⟨hbuild, hdbe, hoff, -, -, hpwm, -⟩ := hsame
    exact same u v ⟨hbuild, hdbe, hoff, hpwm⟩ hu
  · obtain ⟨l, q, last, rs, k, rfl⟩ := State.moveAction_writes ha
    exact same u _ ⟨rfl, rfl, rfl, rfl⟩ hu

end

/-- Settles O53: no part of a step writes the build, and the units keep their variant where they are written. -/
theorem stepKeepsTheBuild : Obligations.StepKeepsTheBuild := by
  intro s t h
  refine step_keeps_blocks (P := fun u => u.build = s.build ∧ u.dbe.map Dbe.holdEnable = s.dbe.map Dbe.holdEnable)
    ?same ?expire ?reset ?run ⟨rfl, rfl⟩ h
  case same =>
    rintro u v ⟨hbuild, hdbe, -⟩ hu
    rwa [hbuild, hdbe]
  case expire =>
    rintro u ⟨hbuild, hdbe⟩
    exact ⟨hbuild, u.expireResults_holdEnables.trans hdbe⟩
  case reset =>
    rintro u ⟨hbuild, hdbe⟩
    exact ⟨hbuild, by rw [← hdbe]; simp [Function.comp_def, Dbe.afterReset]⟩
  case run =>
    rintro i u v ⟨hbuild, hdbe⟩ hi
    exact ⟨(exec_build hi).trans hbuild, (exec_holdEnables hi).trans hdbe⟩

/-- Settles O27: SAMPLE keeps the invariant of its unit, reset establishes it in every unit, the expiry of an event keeps
its limit, and nothing else writes a unit. -/
theorem stepKeepsUnitInvariant : Obligations.StepKeepsUnitInvariant := by
  intro s t hs h
  refine step_keeps_blocks (P := State.unitsOk) ?same (fun u => State.expireResults_keeps_unitsOk)
    (fun u => State.applyReset_keeps_unitsOk) (fun i u v => exec_keeps_unitsOk) hs h
  case same =>
    rintro u v ⟨hbuild, hdbe, -⟩ hu
    rwa [State.unitsOk, hbuild, hdbe]

/-- Settles O51: SETLVL and reset write a level in range, and nothing else writes the PWM sink. -/
theorem stepKeepsPwmInRange : Obligations.StepKeepsPwmInRange := by
  intro s t hs h
  refine step_keeps_blocks (P := State.pwmOk) ?same (fun u hu => hu) (fun u _ => by simp [State.pwmOk])
    (fun i u v => exec_keeps_pwmOk) hs h
  case same =>
    rintro u v ⟨-, -, -, hpwm⟩ hu
    rwa [State.pwmOk, hpwm]

end Sys2Proof.Machine
end

section
/-! PROOFS. The command byte as its four fields, and decoding at a port as the inverse of the encoding
(30_encoding.md R77, R78, R81). -/

namespace Sys2Proof

section

variable {p : Port} {c : Byte} {i : Instr}

/-- A byte is made of its four fields (30_encoding.md R77). -/
theorem byte_eq_fields (c : Byte) :
    c = opField c ++ (zeroField c ++ (BitVec.ofBool (mField c) ++ BitVec.ofBool (dField c))) := by
  have h : ∀ n : Fin 256, (BitVec.ofFin n : Byte) = opField (BitVec.ofFin n) ++ (zeroField (BitVec.ofFin n) ++
      (BitVec.ofBool (mField (BitVec.ofFin n)) ++ BitVec.ofBool (dField (BitVec.ofFin n)))) := by decide +kernel
  exact h c.toFin

theorem Motor.bit_ofBit (b : Bool) : (Motor.ofBit b).bit = b := by cases b <;> rfl

theorem Dir.bit_ofBit (b : Bool) : (Dir.ofBit b).bit = b := by cases b <;> rfl

/-- The fields of a byte that `decodeOp` accepts are those of the operation, row by row of 30_encoding.md R78. -/
theorem decodeOp_fields (h : decodeOp c = .ok i) : opField c = opCode i ∧ mField c = mBit i ∧ dField c = dBit i := by
  unfold decodeOp at h
  split at h
  case h_1 hop =>
    cases hm : mField c <;> simp only [hm, Bool.false_eq_true, if_false, if_true, reduceCtorEq, Except.ok.injEq] at h
    subst h
    exact ⟨BitVec.eq_of_toNat_eq hop, rfl, rfl⟩
  case h_2 hop =>
    obtain rfl := Except.ok.inj h
    exact ⟨BitVec.eq_of_toNat_eq hop, (Motor.bit_ofBit _).symm, (Dir.bit_ofBit _).symm⟩
  case h_3 hop =>
    cases hd : dField c <;> simp only [hd, Bool.false_eq_true, if_false, if_true, reduceCtorEq, Except.ok.injEq] at h
    subst h
    exact ⟨BitVec.eq_of_toNat_eq hop, (Motor.bit_ofBit _).symm, rfl⟩
  case h_4 hop =>
    obtain rfl := Except.ok.inj h
    exact ⟨BitVec.eq_of_toNat_eq hop, (Motor.bit_ofBit _).symm, (Dir.bit_ofBit _).symm⟩
  case h_5 hop =>
    cases hm : mField c <;> cases hd : dField c <;>
      simp only [hm, hd, Bool.false_eq_true, if_false, if_true, reduceCtorEq, Except.ok.injEq] at h
    subst h
    exact ⟨BitVec.eq_of_toNat_eq hop, rfl, rfl⟩
  case h_6 => cases h

/-- A byte that decodes is the operation's own: no bit of it is dropped. -/
theorem eq_encode_of_decode (h : decode c = .ok i) : c = encode i := by
  unfold decode at h
  split at h
  · next hz =>
    obtain ⟨hop, hm, hd⟩ := decodeOp_fields h
    calc c = opField c ++ (zeroField c ++ (BitVec.ofBool (mField c) ++ BitVec.ofBool (dField c))) := byte_eq_fields c
      _ = encode i := by rw [hop, hz, hm, hd]; rfl
  · cases h

theorem decode_encode (i : Instr) : decode (encode i) = .ok i := by
  cases i with
  | sample r => cases r <;> rfl
  | csteps m d => cases m <;> cases d <;> rfl
  | cperiod m => cases m <;> rfl
  | move m d => cases m <;> cases d <;> rfl
  | setlvl => rfl

theorem decodeAt_encode (h : i.wellFormedAt p = true) : decodeAt p (encode i) = .ok i := by
  simp [decodeAt, decode_encode, h]

/-- A byte that is no operation of the port's block is rejected there (30_encoding.md R81). -/
theorem decodeAt_error (h : ∀ i : Instr, i.wellFormedAt p = true → c ≠ encode i) : ∃ e, decodeAt p c = .error e := by
  cases hc : decodeAt p c with
  | error e => exact ⟨e, rfl⟩
  | ok i =>
    obtain ⟨hdec, hwf⟩ := Machine.decodeAt_ok hc
    exact absurd (eq_encode_of_decode hdec) (h i hwf)

end

end Sys2Proof

namespace Sys2Proof.Machine

/-- Settles O1: a decoded byte has the fields of its operation and so is its encoding, and an encoding decodes back. -/
theorem decodeInvertsEncodeAtEveryPort : Obligations.DecodeInvertsEncodeAtEveryPort := by
  intro p c i
  constructor
  · intro h
    obtain ⟨hdec, hwf⟩ := decodeAt_ok h
    exact ⟨hwf, eq_encode_of_decode hdec⟩
  · rintro ⟨hwf, rfl⟩
    exact decodeAt_encode hwf

/-- Settles O2: five of the bytes are encodings, and decode back at their port; each of the three others fails one check
of the decoder. -/
theorem tableBytesDecodeAsListed : Obligations.TableBytesDecodeAsListed :=
  ⟨decodeAt_encode (i := .sample true) rfl, decodeAt_encode (i := .csteps .kysan .cw) rfl,
    decodeAt_encode (i := .cperiod .kysan) rfl, decodeAt_encode (i := .move .spark .ccw) rfl,
    decodeAt_encode (i := .setlvl) rfl, rfl, rfl, rfl⟩

end Sys2Proof.Machine
end

section
/-! PROOFS. What a step does with a command: it is refused, run or held, where it is presented and where it waits
(30_encoding.md R81; 42_stepper_move.md R149; 70_reset_and_hazards.md R217). -/

namespace Sys2Proof.Machine

section

variable {s t : State} {p : Port} {c : Byte} {i : Instr}

theorem State.receive_of_ok (h : decodeAt p c = .ok i) : s.receive p c = exec i (s.aim p) := by
  simp only [State.receive, h]

/-- A byte that is no operation of its port is refused (30_encoding.md R81). -/
theorem State.receive_refused (h : ∀ i : Instr, i.wellFormedAt p = true → c ≠ encode i) (s : State) :
    ∃ why, s.receive p c = .refused (.reservedCommand why) := by
  obtain ⟨e, he⟩ := decodeAt_error h
  exact ⟨e, by simp only [State.receive, he]⟩

/-- A waiting command is taken before the environment moves (70_reset_and_hazards.md R217). -/
theorem step_ready (h : s.ready = some c) : step s = State.receive { s.expireResults with held := none } .smc c := by
  have hr : s.expireResults.ready = some c := h
  simp only [step, State.turn, hr]

/-- With nothing scripted the SMC goes on by itself (60_exceptions.md R189). -/
theorem step_alone (hr : s.ready = none) (hs : s.script = []) :
    step s = State.smcTurn { s.expireResults with draws := s.draws + 2 } s.expireResults.freeTime := by
  have hr' : s.expireResults.ready = none := hr
  have hs' : s.expireResults.script = [] := hs
  simp only [step, State.turn, hr', hs']
  rfl

theorem State.smcTurn_of_idle {now : Timestamp} (hb : s.seq.busy = false) : s.smcTurn now = .next s := by
  simp [State.smcTurn, hb]

/-- A busy SMC holds each command that it owns (42_stepper_move.md R149). -/
theorem exec_of_busy (hb : s.seq.busy = true) (hi : i.wellFormedAt .smc = true) :
    exec i s = .next (s.hold (encode i)) := by
  cases i with
  | sample r => cases hi
  | setlvl => cases hi
  | csteps m d => simp [exec, execCsteps, hb]
  | cperiod m => simp [exec, execCperiod, hb]
  | move m d => simp [exec, execMove, hb]

/-- An operation of the SMC leaves at its port what waited there, or waits there itself. -/
theorem exec_held (h : exec i s = .next t) : t.held = s.held ∨ t.held = some (encode i) ∧ i.wellFormedAt .smc = true := by
  by_cases hb : s.seq.busy = true ∧ i.wellFormedAt .smc = true
  · obtain ⟨hb, hi⟩ := hb
    obtain rfl := Host.Outcome.next.inj ((exec_of_busy hb hi).symm.trans h)
    exact .inr ⟨rfl, hi⟩
  · left
    have hidle : i.wellFormedAt .smc = true → s.seq.busy ≠ true := fun hi hbusy => hb ⟨hbusy, hi⟩
    cases i with
    | sample r =>
      obtain ⟨u, -, rfl⟩ := exec_sample_writes h
      rfl
    | setlvl =>
      obtain ⟨p, rfl⟩ := exec_setlvl_writes h
      rfl
    | csteps m d =>
      obtain ⟨hbusy, -⟩ | ⟨-, n, -, rfl⟩ := execCsteps_next h
      · exact absurd hbusy (hidle rfl)
      · rfl
    | cperiod m =>
      obtain ⟨hbusy, -⟩ | ⟨-, -, rfl⟩ | ⟨-, -, n, -, rfl⟩ := execCperiod_next h
      · exact absurd hbusy (hidle rfl)
      · rfl
      · rfl
    | move m d =>
      obtain ⟨hbusy, -⟩ | ⟨-, -, rfl⟩ | ⟨-, -, n, k, -, -, rfl⟩ := execMove_next h
      · exact absurd hbusy (hidle rfl)
      · rfl
      · rfl

theorem exec_keeps_heldOk (hs : s.heldOk) (h : exec i s = .next t) : t.heldOk := by
  intro c hc
  obtain hheld | ⟨hheld, hi⟩ := exec_held h
  · exact hs c (hheld ▸ hc)
  · obtain rfl := Option.some.inj (hheld.symm.trans hc)
    exact ⟨i, decodeAt_encode hi⟩

theorem State.receive_keeps_heldOk (hs : s.heldOk) (h : s.receive p c = .next t) : t.heldOk := by
  obtain ⟨i, -, hi⟩ := State.receive_next h
  refine exec_keeps_heldOk ?_ hi
  cases p <;> exact hs

theorem State.smcTurn_held {now : Timestamp} (h : s.smcTurn now = .next t) : t.held = s.held := by
  obtain ⟨-, rfl⟩ | ⟨-, ha⟩ := State.smcTurn_next h
  · rfl
  · obtain ⟨l, q, last, rs, k, rfl⟩ := State.moveAction_writes ha
    rfl

/-- One move of the environment puts nothing at the SMC's port but a command that `exec` holds there. -/
theorem State.environment_keeps_heldOk {mv : EnvMove} (hs : s.heldOk) (h : s.environment mv = .next t) : t.heldOk := by
  cases mv with
  | present p c => exact State.receive_keeps_heldOk hs h
  | smcTurn now => rwa [State.heldOk, State.smcTurn_held h]
  | withdraw =>
    obtain rfl := Host.Outcome.next.inj h
    intro c hc
    cases hc
  | rst | driveAngle q | driveSpeed q | drivePercent n =>
    obtain rfl := Host.Outcome.next.inj h
    exact hs

end

/-- Settles O5: the byte has no meaning at its port, so that `receive` refuses it, and a step receives it where it is
presented and where it waits. -/
theorem reservedByteIsRefused : Obligations.ReservedByteIsRefused := by
  intro s p c hc
  refine ⟨?_, ?_⟩
  · rintro hr ⟨rest, hs⟩
    obtain ⟨why, hwhy⟩ := State.receive_refused hc { s.expireResults with script := rest }
    exact ⟨why, (step_environment hr hs).trans hwhy⟩
  · rintro rfl hr
    obtain ⟨why, hwhy⟩ := State.receive_refused hc { s.expireResults with held := none }
    exact ⟨why, (step_ready hr).trans hwhy⟩

/-- Settles O6: only `hold` puts a byte at the port, and it is the encoding of an operation of the SMC. -/
theorem stepKeepsHeldCommandWellFormed : Obligations.StepKeepsHeldCommandWellFormed := by
  intro s t hs h
  obtain ⟨c, -, hrun⟩ | ⟨-, -, hturn⟩ | ⟨mv, rest, -, -, henv⟩ := step_next h
  · exact State.receive_keeps_heldOk (fun c hc => by cases hc) hrun
  · rwa [State.heldOk, State.smcTurn_held hturn]
  · exact State.environment_keeps_heldOk (s := { s.expireResults with script := rest }) hs henv

/-- Settles O3: the environment's move is the presentation, and a byte that decodes is run. -/
theorem stepRunsTheDecodedCommand : Obligations.StepRunsTheDecodedCommand := by
  intro s p c i rest hr hs hc
  exact (step_environment hr hs).trans (State.receive_of_ok hc)

/-- Settles O4: an idle SMC to which no reset is applied is ready for the command that waits. -/
theorem heldCommandTakenWhenIdle : Obligations.HeldCommandTakenWhenIdle := by
  intro s c i hb hheld hc hrst
  have hnot : s.resetApplied = false := by
    rw [Bool.eq_false_iff, ne_eq, State.resetApplied_iff]
    rintro ⟨rest, hs⟩
    simp [hs] at hrst
  have hr : s.ready = some c := by simp [State.ready, hb, hnot, hheld]
  exact (step_ready hr).trans (State.receive_of_ok hc)

/-- Settles O7: each of the three operations is the SMC's own, and a busy SMC holds those. -/
theorem busySmcHoldsItsCommands : Obligations.BusySmcHoldsItsCommands :=
  fun _ _ _ hb => ⟨exec_of_busy hb rfl, exec_of_busy hb rfl, exec_of_busy hb rfl⟩

/-- Settles O8: with an empty script the step is a turn of an SMC that is idle, after the expiry of the results. -/
theorem idleMachineKeepsItsState : Obligations.IdleMachineKeepsItsState := by
  intro s hb hheld hs
  have hr : s.ready = none := by simp [State.ready, hheld]
  exact ⟨_, (step_alone hr hs).trans (State.smcTurn_of_idle hb), s.expireResults_sameButResults, rfl, rfl, rfl, rfl, rfl⟩

/-- Settles O9: the step is the environment's move, which writes its one input, after the expiry of the results. -/
theorem environmentMovesChangeOneInput : Obligations.EnvironmentMovesChangeOneInput := by
  intro s rest hr
  have hexp := s.expireResults_sameButResults
  refine ⟨fun q hs => ?_, fun q hs => ?_, fun n hs => ?_, fun hs => ?_⟩
  all_goals exact ⟨_, step_environment hr hs, hexp, ⟨rfl, rfl, rfl, rfl, rfl⟩, rfl, rfl⟩

/-- Settles O14: reset comes before a waiting command and writes every field of the hardware's state. -/
theorem resetInputRestoresResetValues : Obligations.ResetInputRestoresResetValues := by
  intro s rest hs
  refine ⟨_, step_environment (State.ready_of_reset hs) hs, rfl, rfl, rfl, rfl, rfl, ?_, ?_, ?_, ?_, rfl, rfl, rfl, rfl⟩
  · rw [← s.expireResults_holdEnables]
    simp [Function.comp_def, Dbe.afterReset]
  · intro d hd
    obtain ⟨u, -, rfl⟩ := List.mem_map.mp hd
    exact ⟨rfl, rfl, rfl, rfl⟩
  · intro m
    cases m <;> exact ⟨rfl, rfl⟩
  · intro m l
    cases m <;> cases l <;> rfl

end Sys2Proof.Machine
end

section
/-! PROOFS. Which steps change the debounced state of a unit (10_state.md section 2). -/

namespace Sys2Proof.Machine

section

variable {s t : State} {p : Port} {c : Byte} {i : Instr} {now : Timestamp} {k : Nat} {d e : Dbe}

theorem State.smcTurn_dbe (h : s.smcTurn now = .next t) : t.dbe = s.dbe := by
  obtain ⟨-, rfl⟩ | ⟨-, ha⟩ := State.smcTurn_next h
  · rfl
  · obtain ⟨l, q, last, rs, k, rfl⟩ := State.moveAction_writes ha
    rfl

/-- No command of the SMC writes a unit (20_memory.md R60). -/
theorem State.receive_smc_dbe (h : s.receive .smc c = .next t) : t.dbe = s.dbe := by
  obtain ⟨i, hi, hx⟩ := State.receive_next h
  obtain ⟨-, hwf⟩ := decodeAt_ok hi
  obtain ⟨o, q, rs, k, c, rfl⟩ := exec_smc_writes hwf hx
  rfl

/-- Only reset and a SAMPLE byte at a unit's port, among the environment's moves, write a unit (10_state.md R20). -/
theorem State.environment_dbe {mv : EnvMove} (h : s.environment mv = .next t) :
    t.dbe = s.dbe ∨ (mv = .rst ∧ t.dbe = s.dbe.map fun d => Dbe.afterReset d.holdEnable) ∨
    ∃ j r u, mv = .present (.dbe j) (encode (.sample r)) ∧ s.dbe[j]? = some u ∧
      t.dbe = s.dbe.set j (u.sample s.build r) := by
  cases mv with
  | smcTurn now => exact .inl (State.smcTurn_dbe h)
  | driveAngle q | driveSpeed q | drivePercent n | withdraw =>
    obtain rfl := Host.Outcome.next.inj h
    exact .inl rfl
  | rst =>
    obtain rfl := Host.Outcome.next.inj h
    exact .inr (.inl ⟨rfl, rfl⟩)
  | present p c =>
    obtain ⟨i, hi, hx⟩ := State.receive_next h
    obtain ⟨hwf, rfl⟩ := (decodeInvertsEncodeAtEveryPort p c i).mp hi
    obtain ⟨hbuild, hdbe, -⟩ := State.aim_sameHardware s p
    obtain hsame | ⟨r, u, rfl, hu, ht⟩ := exec_dbe hx
    · exact .inl (hsame.trans hdbe)
    · cases p with
      | smc => cases hwf
      | brt => cases hwf
      | dbe j => exact .inr (.inr ⟨j, r, u, rfl, hu, ht⟩)

/-- A SAMPLE that changes the state has met the threshold of the new one (40_debounce.md R101, R102). -/
theorem Dbe.sample_threshold (b : Config.Build) (d : Dbe) (r : Bool)
    (h : (d.sample b r).debouncedState ≠ d.debouncedState) :
    ((d.sample b r).debouncedState = .pressed → (d.sample b r).shiftRegister.toNat ≤ b.pressThreshold.toNat) ∧
    ((d.sample b r).debouncedState = .released → b.releaseThreshold.toNat ≤ (d.sample b r).shiftRegister.toNat) := by
  obtain ⟨hd, hle, hst, -⟩ | ⟨hd, -, hst, -⟩ | ⟨hd, hle, hst, -⟩ | ⟨hd, -, hst, -⟩ := Dbe.sample_cases b d r
  · exact ⟨fun _ => BitVec.le_def.mp hle, by simp [hst]⟩
  · exact absurd (hst.trans hd.symm) h
  · exact ⟨by simp [hst], fun _ => BitVec.le_def.mp hle⟩
  · exact absurd (hst.trans hd.symm) h

/-- The expiry of the results leaves the debounced state of every unit. -/
theorem State.expireResults_debouncedState (hd : s.dbe[k]? = some d) (he : s.expireResults.dbe[k]? = some e) :
    e.debouncedState = d.debouncedState := by
  simp only [State.expireResults_dbe, List.getElem?_mapIdx, hd, Option.map_some, Option.some.injEq] at he
  rw [← he, Dbe.expire_debouncedState]

end

/-- Settles O26: where the units are as the expiry left them the state has not changed, and what else writes a unit is
reset or a SAMPLE at its port. -/
theorem onlySampleOrResetChangesDebouncedState : Obligations.OnlySampleOrResetChangesDebouncedState := by
  intro s t k d e h hd he hne
  have hwritten : t.dbe ≠ s.expireResults.dbe := fun hsame =>
    hne (State.expireResults_debouncedState hd (hsame ▸ he))
  obtain ⟨c, -, hrun⟩ | ⟨-, -, hturn⟩ | ⟨mv, rest, hr, hs, henv⟩ := step_next h
  · exact absurd (State.receive_smc_dbe hrun) hwritten
  · exact absurd (State.smcTurn_dbe hturn) hwritten
  · refine ⟨hr, rest, ?_⟩
    obtain hsame | ⟨rfl, hreset⟩ | ⟨j, r, u, rfl, hu, hset⟩ := State.environment_dbe henv
    · exact absurd hsame hwritten
    · obtain ⟨v, -, rfl⟩ := List.mem_map.mp (hreset ▸ List.mem_of_getElem? he)
      exact .inl ⟨hs, rfl⟩
    · by_cases hj : j = k
      · subst hj
        obtain ⟨hlt, -⟩ := List.getElem?_eq_some_iff.mp hu
        rw [hset, List.getElem?_set_self hlt] at he
        obtain rfl := Option.some.inj he
        obtain rfl : d.expire (Config.freeEvent s.draws j) = u := by simpa [hd] using hu
        exact .inr ⟨r, hs, shiftIn_toNat _ r, Dbe.sample_threshold s.build _ r hne⟩
      · rw [hset, List.getElem?_set_ne hj] at he
        exact absurd (State.expireResults_debouncedState hd he) hne

end Sys2Proof.Machine
end

section
/-! PROOFS. The other motor of the two (10_state.md R26). -/

namespace Sys2Proof

theorem Motor.other_ne (m : Motor) : m.other ≠ m := by cases m <;> decide

theorem Motor.eq_other {m m' : Motor} (h : m' ≠ m) : m' = m.other := by
  revert h
  cases m <;> cases m' <;> decide

@[simp] theorem PerMotor.get_other_set {α : Type} (l : PerMotor α) (m : Motor) (x : α) :
    (l.set m x).get m.other = l.get m.other :=
  PerMotor.get_set_other l m.other_ne x

end Sys2Proof
end

section
/-! PROOFS. The invariants of the Stepper Motion Controller: the residuals, the lines, the clock and the move in progress
(10_state.md R27, R31; 20_memory.md R52; 42_stepper_move.md R141, R146, R150). -/

namespace Sys2Proof.Machine

section

variable {s t : State} {i : Instr} {m : Motor} {d : Dir} {now : Timestamp} {o : MotorOffset} {p c : Count}

/-- What CSTEPS leaves over is at most half a step (10_state.md R27). -/
theorem abs_nextOffset_residual_le (m : Motor) (d : Dir) (a : Q) (o : MotorOffset) :
    |(nextOffset m d a o).residual| ≤ stepRes m / 2 := by
  have hround := roundNearest_abs (rawSteps m d a o)
  calc |(nextOffset m d a o).residual|
      = |(roundedSteps m d a o : Q) - rawSteps m d a o| * stepRes m := by
        rw [nextOffset, abs_mul, abs_of_pos (stepRes_pos m)]
    _ ≤ 1 / 2 * stepRes m := mul_le_mul_of_nonneg_right hround (stepRes_pos m).le
    _ = stepRes m / 2 := by ring

theorem State.residualsOk_of_zero (h : ∀ m, (s.off.get m).residual = 0) : s.residualsOk := fun m => by
  rw [h m, abs_zero]
  exact (half_pos (stepRes_pos m)).le

theorem State.residualsOk_putOffset (hs : s.residualsOk) (ho : |o.residual| ≤ stepRes m / 2) :
    (s.putOffset m o).residualsOk := by
  intro m'
  by_cases hm : m' = m
  · subst hm
    simpa using ho
  · simpa [PerMotor.get_set_other _ hm] using hs m'

theorem exec_keeps_residualsOk (hs : s.residualsOk) (h : exec i s = .next t) : t.residualsOk := by
  cases i with
  | sample r =>
    obtain ⟨u, -, rfl⟩ := exec_sample_writes h
    exact hs
  | setlvl =>
    obtain ⟨p, rfl⟩ := exec_setlvl_writes h
    exact hs
  | cperiod m =>
    obtain ⟨rs, k, c, rfl⟩ := exec_cperiod_writes h
    exact hs
  | csteps m d =>
    obtain ⟨-, rfl⟩ | ⟨-, c, -, rfl⟩ := execCsteps_next h
    · exact hs
    · exact State.residualsOk_putOffset hs (abs_nextOffset_residual_le m d _ _)
  | move m d =>
    obtain ⟨-, rfl⟩ | ⟨-, -, rfl⟩ | ⟨-, -, p, c, -, -, rfl⟩ := execMove_next h
    · exact hs
    · exact hs
    · exact State.residualsOk_putOffset hs (abs_nextOffset_residual_le m d _ _)

/-- The lines of an idle machine (42_stepper_move.md R146). -/
theorem State.linesOk_of_idle (hb : s.seq.busy = false) : s.linesOk ↔ ∀ m, s.quiet m := by
  simp only [State.linesOk, hb, Bool.false_eq_true, if_false]
  exact ⟨fun ⟨hspark, hkysan⟩ m => by cases m <;> assumption, fun h => ⟨h .spark, h .kysan⟩⟩

/-- The lines while a move runs (42_stepper_move.md R141). -/
theorem State.linesOk_of_busy (hb : s.seq.busy = true) : s.linesOk ↔
    s.quiet s.seq.motor.other ∧ movingOk s.seq (s.lines.get s.seq.motor) ∧
      (s.off.get s.seq.motor).prevDir = s.seq.dir := by
  simp only [State.linesOk, hb, if_true]

/-- Acceptance finds the lines low and stores the direction of the move (42_stepper_move.md R140). -/
theorem State.accepted_linesOk (hb : s.seq.busy = false) (hs : s.linesOk) : (s.accepted m d p c).linesOk := by
  have hq := (State.linesOk_of_idle hb).mp hs
  rw [State.linesOk_of_busy rfl]
  exact ⟨hq m.other, hq m, by simp [State.accepted, Seq.load, nextOffset]⟩

theorem exec_keeps_linesOk (hs : s.linesOk) (h : exec i s = .next t) : t.linesOk := by
  cases i with
  | sample r =>
    obtain ⟨u, -, rfl⟩ := exec_sample_writes h
    exact hs
  | setlvl =>
    obtain ⟨p, rfl⟩ := exec_setlvl_writes h
    exact hs
  | cperiod m =>
    obtain ⟨rs, k, c, rfl⟩ := exec_cperiod_writes h
    exact hs
  | csteps m d =>
    obtain ⟨-, rfl⟩ | ⟨hb, c, -, rfl⟩ := execCsteps_next h
    · exact hs
    · rw [State.linesOk_of_idle hb] at hs
      exact (State.linesOk_of_idle (by simpa using hb)).mpr hs
  | move m d =>
    obtain ⟨-, rfl⟩ | ⟨-, -, rfl⟩ | ⟨hb, -, p, c, -, -, rfl⟩ := execMove_next h
    · exact hs
    · exact hs
    · exact State.accepted_linesOk hb hs

/-- A part of a step that keeps the motor, the direction, the entries and the other motor's lines leaves the lines in order
if it leaves those of the moving motor in order (42_stepper_move.md R141). -/
theorem State.linesOk_of_movingOk (hs : s.linesOk) (hb : s.seq.busy = true) (hbusy : t.seq.busy = true)
    (hseq : t.seq.motor = s.seq.motor ∧ t.seq.dir = s.seq.dir) (hoff : t.off = s.off)
    (hother : t.lines.get s.seq.motor.other = s.lines.get s.seq.motor.other)
    (hmoving : movingOk t.seq (t.lines.get s.seq.motor)) : t.linesOk := by
  obtain ⟨hquiet, -, hdir⟩ := (State.linesOk_of_busy hb).mp hs
  obtain ⟨hm, hd⟩ := hseq
  rw [State.linesOk_of_busy hbusy, hm, hd, hoff, State.quiet, hother]
  exact ⟨hquiet, hmoving, hdir⟩

/-- What the end of a wait leaves alone (42_stepper_move.md R141). -/
theorem Seq.afterWait_frame (q : Seq) : q.afterWait.busy = q.busy ∧ q.afterWait.motor = q.motor ∧
    q.afterWait.dir = q.dir ∧ q.afterWait.period = q.period ∧ q.afterWait.t0 = q.t0 := by
  cases hp : q.phase <;> simp [Seq.afterWait, hp]

/-- At the head of the loop the next point says whether pulses are to come (42_stepper_move.md R140, R147). -/
theorem movingOk_loopPoint {q : Seq} {l : Lines} (hp : q.point = loopPoint q.remaining) (hen : l.en = true)
    (hstep : l.step = false) (hdir : l.dir = q.dir.bit) : movingOk q l := by
  by_cases h0 : q.remaining = 0
  · simp only [movingOk, hp, loopPoint, if_pos h0]
    exact ⟨hen, hstep, hdir, h0⟩
  · simp only [movingOk, hp, loopPoint, if_neg h0]
    exact ⟨hen, hstep, hdir, h0⟩

/-- The end of a wait leaves the line as it is: high before it is lowered, low before the next pulse or the end
(42_stepper_move.md R141 (4c) to (5)). -/
theorem Seq.afterWait_movingOk {q : Seq} {l : Lines} (hp : q.point = .wait) (h : movingOk q l) :
    movingOk q.afterWait l := by
  simp only [movingOk, hp] at h
  obtain ⟨hen, hstep, hdir, hrem⟩ := h
  cases hph : q.phase with
  | high =>
    simp only [Seq.afterWait, movingOk, hph]
    exact ⟨hen, by simpa [hph] using hstep, hdir, hrem⟩
  | low =>
    simp only [Seq.afterWait, hph]
    exact movingOk_loopPoint rfl hen (by rw [hstep, hph]; rfl) hdir

theorem State.moveAction_keeps_linesOk (hs : s.linesOk) (hb : s.seq.busy = true) (h : s.moveAction now = .next t) :
    t.linesOk := by
  obtain ⟨hother, hmoving, -⟩ := (State.linesOk_of_busy hb).mp hs
  refine State.moveAction_elim h ?enable ?direction ?start ?raise ?waiting ?reached ?lower ?disable
  case waiting => exact fun _ _ _ _ => hs
  case reached =>
    intro hp _ _ _
    obtain ⟨hbusy, hm, hd, -⟩ := s.seq.afterWait_frame
    exact State.linesOk_of_movingOk hs hb (hbusy.trans hb) ⟨hm, hd⟩ rfl rfl (Seq.afterWait_movingOk hp hmoving)
  all_goals
    intro hp
    simp only [movingOk, hp, ne_eq, BitVec.ofNat_eq_ofNat] at hmoving
  case start =>
    intro _ _
    exact State.linesOk_of_movingOk hs hb hb ⟨rfl, rfl⟩ rfl rfl (by simp [movingOk, hmoving])
  case direction =>
    refine State.linesOk_of_movingOk hs hb hb ⟨rfl, rfl⟩ rfl (PerMotor.get_other_set _ _ _) ?_
    obtain ⟨hen, hstep⟩ := hmoving
    exact movingOk_loopPoint rfl (by simpa [Lines.put] using hen) (by simpa [Lines.put] using hstep) (by simp [Lines.put])
  case enable | raise | lower =>
    refine State.linesOk_of_movingOk hs hb hb ⟨rfl, rfl⟩ rfl (PerMotor.get_other_set _ _ _) ?_
    simp [movingOk, Lines.put, hmoving]
  case disable =>
    rw [State.linesOk_of_idle rfl]
    intro m
    by_cases hm : m = s.seq.motor
    · subst hm
      simp [State.quiet, Lines.put, hmoving]
    · obtain rfl : m = s.seq.motor.other := Motor.eq_other hm
      simpa [State.quiet] using hother

theorem loopPoint_ne (c : Count) : ¬ (loopPoint c = .raise ∨ loopPoint c = .wait ∨ loopPoint c = .lower) := by
  unfold loopPoint
  split <;> simp

/-- No operation reads the clock, and acceptance of a MOVE stands before its first pulse (42_stepper_move.md R140). -/
theorem exec_clock (h : exec i s = .next t) : t.lastTime = s.lastTime ∧ (t.seq = s.seq ∨ t.seq.point = .enable) := by
  obtain ⟨-, -, hlast, -, -, -, -, hseq, -⟩ := eachOperationWritesItsOwnBlock i s t h
  refine ⟨hlast, ?_⟩
  by_cases hi : ∃ m d, i = .move m d
  · obtain ⟨m, d, rfl⟩ := hi
    obtain ⟨-, rfl⟩ | ⟨-, -, rfl⟩ | ⟨-, -, p, c, -, -, rfl⟩ := execMove_next h
    · exact .inl rfl
    · exact .inl rfl
    · exact .inr rfl
  · exact .inl (hseq fun m d hmd => hi ⟨m, d, hmd⟩)

theorem exec_keeps_clockOk (hs : s.clockOk) (h : exec i s = .next t) : t.clockOk := by
  obtain ⟨hlast, hseq | hp⟩ := exec_clock h
  · rwa [State.clockOk, hlast, hseq]
  · rw [State.clockOk, hlast]
    exact ⟨hs.1, fun _ hpulse => by simp [hp] at hpulse⟩

/-- An action of a move reads the clock within its premises, and a pulse starts at a value that was read
(20_memory.md R52, 42_stepper_move.md R143). -/
theorem State.moveAction_keeps_clockOk (hs : s.clockOk) (hb : s.seq.busy = true) (h : s.moveAction now = .next t) :
    t.clockOk ∧ s.lastTime.toInt ≤ t.lastTime.toInt := by
  obtain ⟨h0, hpulse⟩ := hs
  replace hpulse := hpulse hb
  refine State.moveAction_elim (motive := fun t => t.clockOk ∧ s.lastTime.toInt ≤ t.lastTime.toInt) h
    ?enable ?direction ?start ?raise ?waiting ?reached ?lower ?disable
  case enable => exact fun _ => ⟨⟨h0, fun _ hin => by simp at hin⟩, le_rfl⟩
  case direction => exact fun _ => ⟨⟨h0, fun _ hin => absurd hin (loopPoint_ne _)⟩, le_rfl⟩
  case start => exact fun _ hnow hle => ⟨⟨hnow, fun _ _ => ⟨hnow, le_rfl⟩⟩, hle⟩
  case raise => exact fun hp => ⟨⟨h0, fun _ _ => hpulse (.inl hp)⟩, le_rfl⟩
  case waiting =>
    intro hp hnow hle _
    obtain ⟨ht0, hlast⟩ := hpulse (.inr (.inl hp))
    exact ⟨⟨hnow, fun _ _ => ⟨ht0, hlast.trans hle⟩⟩, hle⟩
  case reached =>
    intro hp hnow hle _
    obtain ⟨ht0, hlast⟩ := hpulse (.inr (.inl hp))
    obtain ⟨-, -, -, -, hsame⟩ := s.seq.afterWait_frame
    refine ⟨⟨hnow, fun _ _ => ?_⟩, hle⟩
    rw [hsame]
    exact ⟨ht0, hlast.trans hle⟩
  case lower => exact fun hp => ⟨⟨h0, fun _ _ => hpulse (.inr (.inr hp))⟩, le_rfl⟩
  case disable => exact fun _ => ⟨⟨h0, fun hbusy => by cases hbusy⟩, le_rfl⟩

/-- The move in progress goes on as it is, or its last action has disabled the motor (42_stepper_move.md R150). -/
abbrev State.goesOn (s t : State) : Prop :=
  (t.seq.busy = true ∧ t.seq.motor = s.seq.motor ∧ t.seq.dir = s.seq.dir ∧ t.seq.period = s.seq.period ∧ t.off = s.off) ∨
  (t.seq.busy = false ∧ s.seq.point = .disable ∧ (t.lines.get s.seq.motor).en = false ∧ t.off = s.off)

/-- An action of a move goes on with the same move, or is the last one (42_stepper_move.md R141, R150). -/
theorem State.moveAction_goesOn (hb : s.seq.busy = true) (h : s.moveAction now = .next t) : s.goesOn t := by
  refine State.moveAction_elim (motive := s.goesOn) h ?enable ?direction ?start ?raise ?waiting ?reached ?lower ?disable
  case reached =>
    intro _ _ _ _
    obtain ⟨hbusy, hm, hd, hperiod, -⟩ := s.seq.afterWait_frame
    exact .inl ⟨hbusy.trans hb, hm, hd, hperiod, rfl⟩
  case disable => exact fun hp => .inr ⟨rfl, hp, by simp [Lines.put], rfl⟩
  all_goals
    intros
    exact .inl ⟨hb, rfl, rfl, rfl, rfl⟩

theorem State.smcTurn_goesOn (hb : s.seq.busy = true) (h : s.smcTurn now = .next t) : s.goesOn t := by
  obtain ⟨hidle, -⟩ | ⟨-, ha⟩ := State.smcTurn_next h
  · simp [hb] at hidle
  · exact State.moveAction_goesOn hb ha

/-- While a move runs no operation writes the sequencer or an entry (42_stepper_move.md R149). -/
theorem exec_of_busy_frame (hb : s.seq.busy = true) (h : exec i s = .next t) : t.seq = s.seq ∧ t.off = s.off := by
  cases i with
  | sample r =>
    obtain ⟨u, -, rfl⟩ := exec_sample_writes h
    exact ⟨rfl, rfl⟩
  | setlvl =>
    obtain ⟨p, rfl⟩ := exec_setlvl_writes h
    exact ⟨rfl, rfl⟩
  | csteps m d | cperiod m | move m d =>
    obtain rfl := Host.Outcome.next.inj ((exec_of_busy hb rfl).symm.trans h)
    exact ⟨rfl, rfl⟩

end

/-- Settles O39: CSTEPS and MOVE leave at most half a step, reset leaves 0, and nothing else writes an entry. -/
theorem stepKeepsResidualBound : Obligations.StepKeepsResidualBound := by
  intro s t hs h
  refine step_keeps_blocks (P := State.residualsOk) ?same (fun u hu => hu) ?reset
    (fun i u v => exec_keeps_residualsOk) hs h
  case same =>
    rintro u v ⟨-, -, hoff, -⟩ hu
    rwa [State.residualsOk, hoff]
  case reset =>
    exact fun u _ => State.residualsOk_of_zero fun m => by cases m <;> rfl

/-- Settles O47: acceptance finds every line low, each action leaves the lines as the next one finds them, and reset lowers
them all. -/
theorem stepKeepsLinesInOrder : Obligations.StepKeepsLinesInOrder := by
  intro s t hs h
  refine step_keeps (P := State.linesOk) ?same (fun u hu => hu) (fun u _ => ⟨⟨rfl, rfl⟩, rfl, rfl⟩)
    (fun i u v => exec_keeps_linesOk) (fun u v now => State.moveAction_keeps_linesOk) hs h
  case same =>
    rintro u v ⟨-, -, hoff, hseq, hlines, -⟩ hu
    simpa only [State.linesOk, State.quiet, hoff, hseq, hlines] using hu

/-- Settles O48: only the actions of a move read the clock, within its premises. -/
theorem stepKeepsTheClockMonotonic : Obligations.StepKeepsTheClockMonotonic := by
  intro s t hs h
  refine step_keeps (P := fun u => u.clockOk ∧ s.lastTime.toInt ≤ u.lastTime.toInt) ?same (fun u hu => hu) ?reset ?run
    ?action ⟨hs, le_rfl⟩ h
  case same =>
    rintro u v ⟨-, -, -, hseq, -, -, hlast⟩ hu
    simpa only [State.clockOk, hseq, hlast] using hu
  case reset =>
    rintro u ⟨⟨h0, -⟩, hle⟩
    exact ⟨⟨h0, fun hbusy => by cases hbusy⟩, hle⟩
  case run =>
    rintro i u v ⟨hu, hle⟩ hi
    exact ⟨exec_keeps_clockOk hu hi, (exec_clock hi).1 ▸ hle⟩
  case action =>
    rintro u v now ⟨hu, hle⟩ hb ha
    obtain ⟨hv, hmono⟩ := State.moveAction_keeps_clockOk hu hb ha
    exact ⟨hv, hle.trans hmono⟩

/-- Settles O49: a busy SMC holds every command, so that only reset and the actions of the move itself write the sequencer,
and each action but the last goes on with the move. -/
theorem onlyItsEndOrResetEndsAMove : Obligations.OnlyItsEndOrResetEndsAMove := by
  intro s t hb h
  obtain ⟨c, hr, -⟩ | ⟨-, -, hturn⟩ | ⟨mv, rest, -, hs, henv⟩ := step_next h
  · simp [State.ready_of_busy hb] at hr
  · exact .inr (State.smcTurn_goesOn (s := { s.expireResults with draws := s.draws + 2 }) hb hturn)
  · cases mv with
    | rst => exact .inl ⟨rest, hs⟩
    | smcTurn now => exact .inr (State.smcTurn_goesOn (s := { s.expireResults with script := rest }) hb henv)
    | present p c =>
      obtain ⟨i, -, hi⟩ := State.receive_next henv
      obtain ⟨-, -, hoff, hseq, -⟩ := State.aim_sameHardware { s.expireResults with script := rest } p
      obtain ⟨hseq', hoff'⟩ := exec_of_busy_frame (hseq ▸ hb) hi
      rw [hseq', hoff', hseq, hoff]
      exact .inr (.inl ⟨hb, rfl, rfl, rfl, rfl⟩)
    | driveAngle q | driveSpeed q | drivePercent n | withdraw =>
      obtain rfl := Host.Outcome.next.inj henv
      exact .inr (.inl ⟨hb, rfl, rfl, rfl, rfl⟩)

end Sys2Proof.Machine
end

section
/-! PROOFS. One SAMPLE by its unit: the frame, the fault of a port without a unit, and what the outputs show of it
(10_state.md R20, R32, R34; 30_encoding.md R70, R72). -/

namespace Sys2Proof.Machine

/-- Settles O18: SAMPLE sets one element of the list of units and nothing else. -/
theorem sampleChangesOnlyItsUnit : Obligations.SampleChangesOnlyItsUnit := by
  intro s t r h
  obtain ⟨u, -, rfl⟩ := exec_sample_writes h
  exact ⟨rfl, rfl, rfl, rfl, rfl, rfl, ⟨rfl, rfl, rfl, rfl, rfl⟩, rfl, List.length_set,
    fun k hk => List.getElem?_set_ne hk.symm⟩

/-- Settles O19: a target outside the list of units has no unit to sample. -/
theorem sampleWithoutUnitFaults : Obligations.SampleWithoutUnitFaults := by
  intro s r h
  have hnone : s.dbe[s.target]? = none := List.getElem?_eq_none h
  simp only [exec, execSample, hnone]

section

variable (d : Dbe)

theorem Dbe.stateOut_eq_zero_iff : d.stateOut = 0 ↔ d.debouncedState = .pressed := by
  cases h : d.debouncedState <;> simp [Dbe.stateOut, levelBit, h]

theorem Dbe.stateOut_eq_one_iff : d.stateOut = 1 ↔ d.debouncedState = .released := by
  cases h : d.debouncedState <;> simp [Dbe.stateOut, levelBit, h]

/-- The event codes are one to one (30_encoding.md R72). -/
theorem Dbe.evOut_eq_iff (e : Event) : d.evOut = eventCode e ↔ d.ev = e := by
  cases h : d.ev <;> cases e <;> simp [Dbe.evOut, eventCode, h]

theorem State.busyOut_eq_one_iff (s : State) : s.busyOut = 1 ↔ s.seq.busy = true := by
  cases h : s.seq.busy <;> simp [State.busyOut, h]

theorem State.busyOut_eq_zero_iff (s : State) : s.busyOut = 0 ↔ s.seq.busy = false := by
  cases h : s.seq.busy <;> simp [State.busyOut, h]

/-- The error codes are one to one (30_encoding.md R75). -/
theorem State.errOut_eq_iff (s : State) (e : ErrCode) : s.errOut = errCode e ↔ s.results.err = e := by
  cases h : s.results.err <;> cases e <;> simp [State.errOut, errCode, h]

end

/-- Settles O10: each code is one to one. -/
theorem outputsCarryTheListedCodes : Obligations.OutputsCarryTheListedCodes :=
  ⟨fun d => ⟨d.stateOut_eq_zero_iff, d.stateOut_eq_one_iff, d.evOut_eq_iff .noEvent, d.evOut_eq_iff .pressed,
      d.evOut_eq_iff .released, d.evOut_eq_iff .stillPressed⟩,
    fun s => ⟨s.busyOut_eq_one_iff, s.busyOut_eq_zero_iff, s.errOut_eq_iff .ok, s.errOut_eq_iff .invalidArgument⟩⟩

/-- Settles O11: an edge is reported exactly at its transition, and `StillPressed` has the state pressed before and after
among its conditions. -/
theorem evOutputShowsTheChangeOfStateOutput : Obligations.EvOutputShowsTheChangeOfStateOutput := by
  intro s d r hd
  obtain ⟨hreleased, hpressed⟩ := Dbe.sample_ev_edge_iff s.build d r
  refine ⟨d.sample s.build r, exec_sample_of hd r, ?_, ?_, fun hstill => ?_⟩
  · rw [Dbe.stateOut_eq_zero_iff, Dbe.stateOut_eq_one_iff, ← hpressed]
    exact Dbe.evOut_eq_iff _ .pressed
  · rw [Dbe.stateOut_eq_zero_iff, Dbe.stateOut_eq_one_iff, ← hreleased]
    exact Dbe.evOut_eq_iff _ .released
  · obtain ⟨he, hold, hnew, -⟩ := (Dbe.sample_stillPressed_iff s.build d r).mp
      ((Dbe.evOut_eq_iff _ .stillPressed).mp hstill)
    exact ⟨he, d.stateOut_eq_zero_iff.mpr hold, (Dbe.stateOut_eq_zero_iff _).mpr hnew⟩

section

variable {s t : State} {m : Motor} {d : Dir}

theorem State.raiseInvalidArgument_outputs (hb : s.seq.busy = false) :
    s.raiseInvalidArgument.errOut = 0b01 ∧ s.raiseInvalidArgument.busyOut = 0 :=
  ⟨(State.errOut_eq_iff _ .invalidArgument).mpr rfl, (State.busyOut_eq_zero_iff _).mpr hb⟩

/-- CSTEPS and CPERIOD leave the sequencer (10_state.md R30). -/
theorem exec_seq_of_not_move {i : Instr} (hi : ∀ m d, i ≠ .move m d) (h : exec i s = .next t) : t.seq = s.seq := by
  obtain ⟨-, -, -, -, -, -, -, hseq, -⟩ := eachOperationWritesItsOwnBlock i s t h
  exact hseq hi

/-- An operation other than MOVE that completes with no error on an idle SMC shows 0b00, and `busy` still 0. -/
theorem exec_outputs_of_ok {i : Instr} (hb : s.seq.busy = false) (hi : ∀ m d, i ≠ .move m d) (h : exec i s = .next t)
    (hok : t.results.err = .ok) : t.errOut = 0b00 ∧ t.busyOut = 0 :=
  ⟨(State.errOut_eq_iff _ .ok).mpr hok, t.busyOut_eq_zero_iff.mpr (exec_seq_of_not_move hi h ▸ hb)⟩

end

/-- Settles O12: the outputs are the codes of `busy` and of the error result, which each operation's own cases give. -/
theorem smcOutputsShowItsOperations : Obligations.SmcOutputsShowItsOperations := by
  intro s t m d hb
  replace hb := s.busyOut_eq_zero_iff.mp hb
  refine ⟨fun hs h => ?_, fun hs h => ?_, fun hs h => ?_, fun h => ?_⟩
  · obtain h | h := h
    · obtain rfl := Host.Outcome.next.inj ((exec_cperiod_of_nonpos hb hs).symm.trans h)
      exact State.raiseInvalidArgument_outputs hb
    · obtain rfl := Host.Outcome.next.inj ((exec_move_of_nonpos hb hs).symm.trans h)
      exact State.raiseInvalidArgument_outputs hb
  · exact t.busyOut_eq_one_iff.mpr (exec_move_busy hb hs h)
  · exact exec_outputs_of_ok hb (by simp) h (exec_cperiod_err hb hs h)
  · exact exec_outputs_of_ok hb (by simp) h (exec_csteps_err hb h)

/-- Every unit of the reset state is one after reset. -/
theorem reset_dbe {d : Dbe} (hd : d ∈ State.reset.dbe) : ∃ v, d = Dbe.afterReset v := by
  obtain ⟨v, -, rfl⟩ := List.mem_map.mp hd
  exact ⟨v, rfl⟩

/-- Settles O13: the fields are those of `State.resetWith`; the interval is one more than a natural number. -/
theorem resetStateHasTheListedValues : Obligations.ResetStateHasTheListedValues := by
  refine ⟨List.cons_ne_nil _ _, fun d hd => ?_, fun m => ?_, fun m l => ?_, rfl, rfl, rfl, rfl, rfl, rfl,
    Nat.le_add_left 1 _, rfl, rfl⟩
  · obtain ⟨v, rfl⟩ := reset_dbe hd
    exact ⟨rfl, rfl, rfl, rfl⟩
  · cases m <;> exact ⟨rfl, rfl⟩
  · cases m <;> cases l <;> rfl

/-- Settles O52: every unit is one after reset, both residuals are 0, the lines are low, no move runs, the sink is off and
nothing waits. -/
theorem resetMeetsEveryInvariant : Obligations.ResetMeetsEveryInvariant := by
  have hint : 1 ≤ State.reset.build.holdInterval := Nat.le_add_left 1 _
  have hthr : thresholdsOrdered State.reset.build := ⟨by decide, by decide⟩
  refine ⟨⟨hint, hthr, List.cons_ne_nil _ _, fun d hd => ?_⟩, State.residualsOk_of_zero fun m => ?_,
    ⟨⟨rfl, rfl⟩, rfl, rfl⟩, ⟨le_rfl, fun hb => by cases hb⟩, ⟨le_rfl, zero_le_one, fun _ => rfl⟩, fun c hc => by cases hc⟩
  · obtain ⟨v, rfl⟩ := reset_dbe hd
    exact Dbe.afterReset_ok hint hthr v
  · cases m <;> rfl

end Sys2Proof.Machine
end

section
/-! PROOFS. The thresholds as run lengths, and what runs of samples give: the register, the edges and the repeats
(40_debounce.md sections 1 to 3). -/

namespace Sys2Proof.Machine

/-! ## The bits of a register below or above a threshold -/

/-- Below a power of two the bits from it on are clear. -/
theorem toNat_lt_two_pow_iff (x : Byte) (k : Nat) : x.toNat < 2 ^ k ↔ ∀ i < 8, k ≤ i → x.getLsbD i = false := by
  constructor
  · intro h i _ hki
    exact Nat.testBit_lt_two_pow (h.trans_le (Nat.pow_le_pow_right (by decide) hki))
  · intro h
    refine Nat.lt_pow_two_of_testBit _ fun i hki => ?_
    by_cases hi : i < 8
    · exact h i hi hki
    · exact Nat.testBit_lt_two_pow (x.isLt.trans_le (Nat.pow_le_pow_right (by decide) (Nat.not_lt.mp hi)))

/-- The same for the complement: close to 256 the high bits are set. -/
theorem two_pow_le_toNat_iff (x : Byte) {j : Nat} (hj : j ≤ 8) :
    256 - 2 ^ j ≤ x.toNat ↔ ∀ i < 8, j ≤ i → x.getLsbD i = true := by
  have hpow : 2 ^ j ≤ 2 ^ 8 := Nat.pow_le_pow_right (by decide) hj
  have hpos : 0 < 2 ^ j := Nat.pow_pos (by decide)
  have hnot : (~~~x).toNat = 255 - x.toNat := BitVec.toNat_not
  calc 256 - 2 ^ j ≤ x.toNat ↔ (~~~x).toNat < 2 ^ j := by omega
    _ ↔ ∀ i < 8, j ≤ i → (~~~x).getLsbD i = false := toNat_lt_two_pow_iff _ j
    _ ↔ ∀ i < 8, j ≤ i → x.getLsbD i = true :=
      forall_congr' fun i => forall_congr' fun hi => by simp [hi]

section

variable {b : Config.Build} {d : Dbe} {r : Bool}

/-- Released: the press test decides the new state (40_debounce.md R101). -/
theorem Dbe.sample_pressed_iff (hd : d.debouncedState = .released) :
    (d.sample b r).debouncedState = .pressed ↔ (d.sample b r).shiftRegister.toNat ≤ b.pressThreshold.toNat := by
  rw [← BitVec.le_def]
  by_cases h : shiftIn d.shiftRegister r ≤ b.pressThreshold
  · simp [Dbe.sample_press hd h, h]
  · simp [Dbe.sample_stayReleased hd h, h]

/-- Pressed: the release test decides the new state (40_debounce.md R102). -/
theorem Dbe.sample_released_iff (hd : d.debouncedState = .pressed) :
    (d.sample b r).debouncedState = .released ↔ b.releaseThreshold.toNat ≤ (d.sample b r).shiftRegister.toNat := by
  rw [← BitVec.le_def]
  by_cases h : b.releaseThreshold ≤ shiftIn d.shiftRegister r
  · simp [Dbe.sample_release hd h, h]
  · simp [Dbe.sample_stayPressed hd h, h]

end

/-- Settles O20: the test of the state is a comparison with a power of two, or with the complement of one. -/
theorem thresholdsAreRunLengths : Obligations.ThresholdsAreRunLengths := by
  intro b d r k j
  refine ⟨fun _ hb hd => ?_, fun hj hb hd => ?_⟩
  · have hpos : 0 < 2 ^ k := Nat.pow_pos (by decide)
    rw [Dbe.sample_pressed_iff hd, hb, ← toNat_lt_two_pow_iff]
    omega
  · rw [Dbe.sample_released_iff hd, hb, two_pow_le_toNat_iff _ hj]

/-! ## Lists of samples -/

section

variable (b : Config.Build)

theorem Dbe.afterSamples_append (rs : List Bool) (r : Bool) :
    ∀ d : Dbe, d.afterSamples b (rs ++ [r]) = (d.afterSamples b rs).sample b r := by
  induction rs with
  | nil => exact fun d => rfl
  | cons r' rs ih => exact fun d => ih _

theorem Dbe.events_append (rs : List Bool) (r : Bool) :
    ∀ d : Dbe, d.events b (rs ++ [r]) = d.events b rs ++ [((d.afterSamples b rs).sample b r).ev] := by
  induction rs with
  | nil => exact fun d => rfl
  | cons r' rs ih => exact fun d => congrArg _ (ih _)

/-- The newest sample stands at bit 7, and each older one a bit lower (40_debounce.md R115). -/
theorem Dbe.afterSamples_getLsbD (d : Dbe) (rs : List Bool) : ∀ a < 8,
    (d.afterSamples b rs).shiftRegister.getLsbD (7 - a) =
      (rs.reverse[a]?).getD (d.shiftRegister.getLsbD (7 - a + rs.length)) := by
  induction rs using List.reverseRecOn with
  | nil => exact fun a _ => rfl
  | append_singleton rs r ih =>
    intro a ha
    rw [Dbe.afterSamples_append, Dbe.sample_shiftRegister, shiftIn_getLsbD _ _ _ (by omega), List.reverse_concat]
    cases a with
    | zero => rfl
    | succ a =>
      rw [if_neg (by omega), List.getElem?_cons_succ, List.length_append, List.length_singleton,
        show 7 - (a + 1) + 1 = 7 - a by omega, show 7 - (a + 1) + (rs.length + 1) = 7 - a + rs.length by omega]
      exact ih a (by omega)

end

/-- Settles O21: the bits of `Dbe.afterSamples_getLsbD`; where no sample has come there is a 1 of reset as long as the bit
is below 8. -/
theorem registerHoldsTheNewestSamples : Obligations.RegisterHoldsTheNewestSamples := by
  intro b h rs a ha
  rw [Dbe.afterSamples_getLsbD b _ rs a ha]
  by_cases hlen : a < rs.length
  · simp [hlen]
  · have hones : (Dbe.afterReset h).shiftRegister = BitVec.allOnes 8 := rfl
    have hbit : 7 - a + rs.length < 8 := by omega
    rw [List.getElem?_eq_none (by simpa using hlen), Option.getD_none, hones, BitVec.getLsbD_allOnes]
    simpa using hbit

/-! ## The edges -/

/-- The other state comes with every edge: from a state the edges alternate, the first one leaving it. -/
theorem Dbe.events_alternate (b : Config.Build) (rs : List Bool) : ∀ (d : Dbe) (n : Nat) (e : Event),
    ((d.events b rs).filter Event.isEdge)[n]? = some e →
      e = if (n % 2 = 0 ↔ d.debouncedState = .released) then .pressed else .released := by
  induction rs with
  | nil => intro d n e h; cases h
  | cons r rs ih =>
    intro d n e h
    replace ih := ih (d.sample b r)
    obtain ⟨hd, -, hst, hev⟩ | ⟨hd, -, hst, hev⟩ | ⟨hd, -, hst, hev⟩ | ⟨hd, -, hst, hev | hev⟩ := Dbe.sample_cases b d r
    all_goals simp only [Dbe.events, List.filter_cons, hev, hst] at h ih
    case inl | inr.inr.inl =>
      cases n with
      | zero => simpa [hd, Event.isEdge, eq_comm] using h
      | succ n =>
        have hn := ih n e (by simpa [Event.isEdge] using h)
        have hparity : (n + 1) % 2 = 0 ↔ ¬ n % 2 = 0 := by omega
        simpa [hd, hparity] using hn
    all_goals simpa [hd] using ih n e (by simpa [Event.isEdge] using h)

/-- Settles O22: reset leaves the released state, from which the first edge is `Pressed`. -/
theorem edgesAlternateFromReset : Obligations.EdgesAlternateFromReset := by
  intro b h rs n e he
  simpa [Dbe.afterReset] using Dbe.events_alternate b rs _ n e he

section

variable {b : Config.Build} {d : Dbe} {r v : Bool}

/-- A released unit above the press threshold reports nothing. -/
theorem Dbe.sample_above (hd : d.debouncedState = .released)
    (h : b.pressThreshold.toNat < (d.sample b r).shiftRegister.toNat) :
    (d.sample b r).debouncedState = .released ∧ (d.sample b r).ev = .noEvent := by
  simp [Dbe.sample_stayReleased hd (BitVec.not_le.mpr (BitVec.lt_def.mpr h))]

/-- A high sample sets the highest bit, and so keeps a unit released where the press threshold is below 0x80. -/
theorem Dbe.sample_high (hb : b.pressThreshold < 0x80) (hd : d.debouncedState = .released) :
    (d.sample b true).debouncedState = .released ∧ (d.sample b true).ev = .noEvent := by
  refine Dbe.sample_above hd ?_
  rw [Dbe.sample_shiftRegister, shiftIn_toNat, if_pos rfl]
  exact Nat.lt_add_left _ (BitVec.lt_def.mp hb)

/-- A low sample clears the highest bit, and so keeps a unit pressed where the release threshold is at least 0x80. -/
theorem Dbe.sample_low (hb : 0x80 ≤ b.releaseThreshold) (hd : d.debouncedState = .pressed) :
    (d.sample b false).debouncedState = .pressed := by
  have hlt : ¬ b.releaseThreshold ≤ shiftIn d.shiftRegister false := by
    have hsr := d.shiftRegister.isLt
    have hle : 128 ≤ b.releaseThreshold.toNat := BitVec.le_def.mp hb
    simp only [BitVec.le_def, shiftIn_toNat, Bool.false_eq_true, if_false]
    omega
  rw [Dbe.sample_stayPressed hd hlt]

theorem Dbe.events_high (hb : b.pressThreshold < 0x80) (n : Nat) : ∀ d : Dbe, d.debouncedState = .released →
    (∀ e ∈ d.events b (List.replicate n true), e = .noEvent) ∧
    (d.afterSamples b (List.replicate n true)).debouncedState = .released := by
  induction n with
  | zero => exact fun d hd => ⟨fun e he => absurd he List.not_mem_nil, hd⟩
  | succ n ih =>
    intro d hd
    obtain ⟨hst, hev⟩ := Dbe.sample_high hb hd
    obtain ⟨hevents, hafter⟩ := ih _ hst
    exact ⟨List.forall_mem_cons.mpr ⟨hev, hevents⟩, hafter⟩

end

/-- Settles O23: the glitch leaves the bit below the highest one set, so that the register is at least 0x40, and the high
samples after it set the highest bit. -/
theorem isolatedGlitchGivesNoEvent : Obligations.IsolatedGlitchGivesNoEvent := by
  intro b d n hb hd hbit
  have hhigh : 128 ≤ d.shiftRegister.toNat :=
    (two_pow_le_toNat_iff d.shiftRegister (j := 7) (by decide)).mpr fun i hi hle => by
      rwa [show i = 7 by omega]
  have hlt : b.pressThreshold.toNat < (d.sample b false).shiftRegister.toNat := by
    rw [Dbe.sample_shiftRegister, shiftIn_toNat]
    have hle : b.pressThreshold.toNat ≤ 63 := BitVec.le_def.mp hb
    simp only [Bool.false_eq_true, if_false]
    omega
  obtain ⟨hst, hev⟩ := Dbe.sample_above hd hlt
  have hb' : b.pressThreshold < 0x80 := by bv_omega
  obtain ⟨hevents, hafter⟩ := Dbe.events_high hb' n _ hst
  exact ⟨List.forall_mem_cons.mpr ⟨hev, hevents⟩, hafter⟩

/-! ## Steady runs -/

/-- The `k` newest samples are all `v`. -/
def newestAre (x : Byte) (v : Bool) (k : Nat) : Prop := ∀ i < 8, 8 - k ≤ i → x.getLsbD i = v

section

variable {b : Config.Build} {d : Dbe} {v : Bool} {x : Byte} {j k : Nat}

/-- One more sample makes a run one longer. -/
theorem newestAre_shiftIn (hj : j < 8) (h : newestAre x v j) : newestAre (shiftIn x v) v (j + 1) := by
  intro i hi hle
  rw [shiftIn_getLsbD x v i hi]
  split
  · rfl
  · exact h (i + 1) (by omega) (by omega)

/-- A bit of the other value, below a run, bounds it. -/
theorem not_newestAre (hj : j < k) (hk : k ≤ 8) (hbit : x.getLsbD (7 - j) = !v) : ¬ newestAre x v k := by
  intro h
  have hv := h (7 - j) (by omega) (by omega)
  cases v <;> simp_all

theorem edgeEvent_isEdge {before after : Level} (h : before ≠ after) : (edgeEvent before after).isEdge = true := by
  revert h
  cases before <;> cases after <;> decide

theorem edgeEvent_ne_swap {before after : Level} (h : before ≠ after) :
    edgeEvent before after ≠ edgeEvent after before := by
  revert h
  cases before <;> cases after <;> decide

theorem ne_edgeEvent {before after : Level} {e : Event} (h : before ≠ after) (he : e.isEdge = false) :
    e ≠ edgeEvent before after ∧ e ≠ edgeEvent after before := by
  constructor
  · rintro rfl
    simp [edgeEvent_isEdge h] at he
  · rintro rfl
    simp [edgeEvent_isEdge h.symm] at he

/-- There are two states. -/
theorem Level.eq_of_ne {l before after : Level} (hne : before ≠ after) (hl : l ≠ after) : l = before := by
  revert hne hl
  cases l <;> cases before <;> cases after <;> decide

/-- A SAMPLE that changes the state reports the edge. -/
theorem Dbe.sample_ev_of_ne (b : Config.Build) (d : Dbe) (r : Bool)
    (h : (d.sample b r).debouncedState ≠ d.debouncedState) :
    (d.sample b r).ev = edgeEvent d.debouncedState (d.sample b r).debouncedState := by
  obtain ⟨hd, -, hst, hev⟩ | ⟨hd, -, hst, -⟩ | ⟨hd, -, hst, hev⟩ | ⟨hd, -, hst, -⟩ := Dbe.sample_cases b d r
  · rw [hev, hd, hst, edgeEvent]
  · exact absurd (hst.trans hd.symm) h
  · rw [hev, hd, hst, edgeEvent]
  · exact absurd (hst.trans hd.symm) h

variable {before after : Level}

/-- A sample value that does not leave a state gives no edge there, however often it comes. -/
theorem Dbe.events_stay
    (stay : ∀ d : Dbe, d.debouncedState = after → (d.sample b v).debouncedState = after) (n : Nat) :
    ∀ d : Dbe, d.debouncedState = after → ∀ e ∈ d.events b (List.replicate n v), e.isEdge = false := by
  induction n with
  | zero => exact fun d _ e he => absurd he List.not_mem_nil
  | succ n ih =>
    intro d hd
    exact List.forall_mem_cons.mpr
      ⟨Dbe.sample_isEdge_eq_false b d v ((stay d hd).trans hd.symm), ih _ (stay d hd)⟩

/-- A steady run crosses at its `k`-th sample and never again, where `k` newest samples of its value are what the test of
the state before asks, and the value does not leave the state after. Of the run `j` samples have come. -/
theorem Dbe.events_cross (hne : before ≠ after) (hk : k ≤ 8)
    (cross : ∀ d : Dbe, d.debouncedState = before →
      ((d.sample b v).debouncedState = after ↔ newestAre (d.sample b v).shiftRegister v k))
    (stay : ∀ d : Dbe, d.debouncedState = after → (d.sample b v).debouncedState = after) (n : Nat) :
    ∀ (d : Dbe) (j : Nat), j < k → d.debouncedState = before → newestAre d.shiftRegister v j →
      d.shiftRegister.getLsbD (7 - j) = (!v) →
      ∀ (i : Nat) (e : Event), (d.events b (List.replicate n v))[i]? = some e →
        (e = edgeEvent before after ↔ i + 1 + j = k) ∧ e ≠ edgeEvent after before := by
  induction n with
  | zero => intro d j _ _ _ _ i e he; cases he
  | succ n ih =>
    intro d j hj hd hrun hbit i e he
    have hrun' : newestAre (d.sample b v).shiftRegister v (j + 1) := newestAre_shiftIn (by omega) hrun
    by_cases hlast : j + 1 = k
    · have hst : (d.sample b v).debouncedState = after := (cross d hd).mpr (hlast ▸ hrun')
      cases i with
      | zero =>
        obtain rfl : (d.sample b v).ev = e := Option.some.inj he
        have hev := Dbe.sample_ev_of_ne b d v (by rw [hst, hd]; exact hne.symm)
        rw [hev, hst, hd]
        exact ⟨iff_of_true rfl (by omega), edgeEvent_ne_swap hne⟩
      | succ i =>
        have hedge := ne_edgeEvent hne (Dbe.events_stay stay n _ hst e (List.mem_of_getElem? he))
        exact ⟨iff_of_false hedge.1 (by omega), hedge.2⟩
    · have hbit' : (d.sample b v).shiftRegister.getLsbD (7 - (j + 1)) = (!v) := by
        rw [Dbe.sample_shiftRegister, shiftIn_getLsbD _ _ _ (by omega), if_neg (by omega),
          show 7 - (j + 1) + 1 = 7 - j by omega, hbit]
      have hst : (d.sample b v).debouncedState = before :=
        Level.eq_of_ne hne fun h => not_newestAre (by omega) hk hbit' ((cross d hd).mp h)
      cases i with
      | zero =>
        obtain rfl : (d.sample b v).ev = e := Option.some.inj he
        have hedge := ne_edgeEvent hne (Dbe.sample_isEdge_eq_false b d v (hst.trans hd.symm))
        exact ⟨iff_of_false hedge.1 (by omega), hedge.2⟩
      | succ i =>
        have hi := ih _ (j + 1) (by omega) hst hrun' hbit' i e he
        rwa [show i + 1 + (j + 1) = i + 1 + 1 + j by omega] at hi

end

/-- Settles O24: the press test asks for `k` low samples, and a low sample is below 0x80 and releases nothing; the release
test asks for `k` high ones, and a high sample is not below 0x80 and presses nothing. -/
theorem steadyInputGivesOneEdge : Obligations.SteadyInputGivesOneEdge := by
  intro b d n k hk1 hk8
  have empty : ∀ (x : Byte) (v : Bool), newestAre x v 0 := fun x v i hi hle => by omega
  refine ⟨fun hpress hrel hd hbit => ?_, fun hrel hpress hd hbit => ?_⟩
  · exact Dbe.events_cross (before := .released) (after := .pressed) (by decide) hk8
      (fun u hu => (thresholdsAreRunLengths b u false (8 - k) 0).1 (by omega) hpress hu)
      (fun u => Dbe.sample_low hrel) n d 0 hk1 hd (empty _ _) hbit
  · exact Dbe.events_cross (before := .pressed) (after := .released) (by decide) hk8
      (fun u hu => (thresholdsAreRunLengths b u true 0 (8 - k)).2 (by omega) hrel hu)
      (fun u hu => (Dbe.sample_high hpress hu).1) n d 0 hk1 hd (empty _ _) hbit

/-! ## Repeats -/

/-- While nothing releases a unit that is pressed with its counter at 0, it stays pressed, and the counter counts the
samples modulo the interval (40_debounce.md R103). -/
theorem Dbe.afterSamples_held (b : Config.Build) (d : Dbe) (hen : d.holdEnable = true)
    (hd : d.debouncedState = .pressed) (h0 : d.holdCounter = 0) (rs : List Bool)
    (hrel : ∀ e ∈ d.events b rs, e ≠ .released) :
    (d.afterSamples b rs).holdEnable = true ∧ (d.afterSamples b rs).debouncedState = .pressed ∧
      (d.afterSamples b rs).holdCounter = rs.length % b.holdInterval := by
  induction rs using List.reverseRecOn with
  | nil => simp [Dbe.afterSamples, hen, hd, h0]
  | append_singleton rs r ih =>
    rw [Dbe.events_append, List.forall_mem_append, List.forall_mem_singleton] at hrel
    obtain ⟨hrel, hlast⟩ := hrel
    obtain ⟨hen', hd', hcount⟩ := ih hrel
    have hst : ((d.afterSamples b rs).sample b r).debouncedState = .pressed := by
      obtain ⟨hiff, -⟩ := Dbe.sample_ev_edge_iff b (d.afterSamples b rs) r
      rw [Ne, hiff, hd'] at hlast
      cases h : ((d.afterSamples b rs).sample b r).debouncedState <;> simp_all
    rw [Dbe.afterSamples_append]
    refine ⟨hen', hst, ?_⟩
    rw [Dbe.sample_holdCounter, if_pos hen', hst, hd', nextHold, hcount, Nat.mod_add_mod, List.length_append,
      List.length_singleton]

/-- Settles O25: with the counter of `Dbe.afterSamples_held`, the conditions of `StillPressed` are the two of the
statement. -/
theorem repeatsFallOnTheIntervalGrid : Obligations.RepeatsFallOnTheIntervalGrid := by
  intro b d rs r _ hen hd h0 hrel
  obtain ⟨-, hst, hcount⟩ := Dbe.afterSamples_held b d hen hd h0 _ hrel
  rw [Dbe.events_append, List.forall_mem_append] at hrel
  obtain ⟨hen', hd', -⟩ := Dbe.afterSamples_held b d hen hd h0 rs hrel.1
  rw [Dbe.afterSamples_append] at hst hcount ⊢
  rw [Dbe.sample_stillPressed_iff, hst, hd', hen', hcount]
  simp

end Sys2Proof.Machine
end

section
/-! PROOFS. The rounding of the SMC: the nearest integer, a tie going away from zero, in the rational form of the model and
in whole numbers (00_scope.md R12; 41_stepper_compute.md R124). -/

namespace Sys2Proof.Machine

section

variable {x : Q} {n k : Int}

theorem roundNearest_of_nonneg (h : 0 ≤ x) : roundNearest x = ⌊x + 1 / 2⌋ := if_pos h

theorem roundNearest_of_neg (h : x < 0) : roundNearest x = -⌊-x + 1 / 2⌋ := if_neg h.not_ge

/-- At a tie the rounding goes away from zero (00_scope.md R12, D8). -/
theorem roundNearest_tie (h : |(roundNearest x : Q) - x| = 1 / 2) : |x| ≤ |(roundNearest x : Q)| := by
  rcases le_or_gt 0 x with hx | hx
  · have hlt := Int.lt_floor_add_one (x + 1 / 2)
    rw [← roundNearest_of_nonneg hx] at hlt
    have hle : x ≤ roundNearest x := by
      rcases abs_eq (by norm_num) |>.mp h with h | h <;> linarith
    exact abs_le_abs_of_nonneg hx hle
  · have hlt := Int.lt_floor_add_one (-x + 1 / 2)
    have hr : (roundNearest x : Q) = -⌊-x + 1 / 2⌋ := by rw [roundNearest_of_neg hx, Int.cast_neg]
    have hle : (roundNearest x : Q) ≤ x := by
      rcases abs_eq (by norm_num) |>.mp h with h | h <;> linarith
    exact abs_le_abs_of_nonpos hx.le hle

theorem isNearest_roundNearest (x : Q) : IsNearest (roundNearest x) x :=
  ⟨roundNearest_abs x, roundNearest_tie⟩

/-- Of two neighbours at the same tie only one is the farther from zero. -/
theorem not_isNearest_succ (hn : IsNearest n x) : ¬ IsNearest (n + 1) x := by
  rintro ⟨hle', htie'⟩
  obtain ⟨hle, htie⟩ := hn
  push_cast at hle' htie'
  have hx : x = n + 1 / 2 := le_antisymm (by linarith [(abs_le.mp hle).1]) (by linarith [(abs_le.mp hle').2])
  subst hx
  replace htie := htie (by rw [show (n : Q) - (n + 1 / 2) = -(1 / 2) by ring]; norm_num)
  replace htie' := htie' (by rw [show (n : Q) + 1 - (n + 1 / 2) = 1 / 2 by ring]; norm_num)
  rcases le_or_gt 0 n with h0 | h0
  · have h0' : (0 : Q) ≤ n := by exact_mod_cast h0
    rw [abs_of_nonneg h0', abs_of_nonneg (by linarith)] at htie
    linarith
  · have h0' : (n : Q) + 1 ≤ 0 := by exact_mod_cast h0
    rw [abs_of_nonpos h0', abs_of_nonpos (by linarith)] at htie'
    linarith

theorem isNearest_unique (hn : IsNearest n x) (hk : IsNearest k x) : n = k := by
  have hclose : |(n : Q) - k| ≤ 1 := by
    calc |(n : Q) - k| = |(n - x) - (k - x)| := by rw [sub_sub_sub_cancel_right]
      _ ≤ |(n : Q) - x| + |(k : Q) - x| := abs_sub _ _
      _ ≤ 1 / 2 + 1 / 2 := add_le_add hn.1 hk.1
      _ = 1 := by norm_num
  have hclose' : |n - k| ≤ 1 := by exact_mod_cast hclose
  obtain ⟨hlo, hhi⟩ := abs_le.mp hclose'
  have hup : k ≠ n + 1 := fun h => not_isNearest_succ hn (h ▸ hk)
  have hdown : n ≠ k + 1 := fun h => not_isNearest_succ hk (h ▸ hn)
  omega

theorem isNearest_iff : IsNearest n x ↔ n = roundNearest x :=
  ⟨fun h => isNearest_unique h (isNearest_roundNearest x), fun h => h ▸ isNearest_roundNearest x⟩

end

/-- Settles O28: the model's rounding is a nearest integer with the tie rule, and two integers cannot both be. -/
theorem roundNearestIsTheNearestInteger : Obligations.RoundNearestIsTheNearestInteger :=
  fun _ _ => isNearest_iff

end Sys2Proof.Machine
end

section
/-! PROOFS. CSTEPS: the fitted count, the entry it leaves, the accounting over many of them, and the fixed-point form
(41_stepper_compute.md sections 2 and 4). -/

namespace Sys2Proof

theorem PerMotor.set_comm {α : Type} (p : PerMotor α) (m : Motor) (x y : α) :
    (p.set m x).set m.other y = (p.set m.other y).set m x := by
  cases m <;> rfl

@[simp] theorem PerMotor.get_set_of_other {α : Type} (p : PerMotor α) (m : Motor) (y : α) :
    (p.set m.other y).get m = p.get m :=
  PerMotor.get_set_other p m.other_ne.symm y

end Sys2Proof

namespace Sys2Proof.Machine

section

variable {m : Motor} {d : Dir} {a : Q} {o : MotorOffset} {s t : State}

/-- An integer below the limit is fitted after the clamp at 0 (41_stepper_compute.md R129). -/
theorem toCount_toNat_of_lt {n : Int} (h : n < 2 ^ 32) : ∃ c, toCount n.toNat = some c ∧ (c.toNat : Int) = max 0 n := by
  have hlt : n.toNat < 2 ^ 32 := by omega
  refine ⟨_, toCount_of_lt hlt, ?_⟩
  rw [toCount_some (toCount_of_lt hlt)]
  omega

theorem toCount_toNat_of_le {n : Int} (h : 2 ^ 32 ≤ n) : toCount n.toNat = none :=
  toCount_of_le (by omega)

theorem stepCount_of_lt (h : roundedSteps m d a o < 2 ^ 32) :
    ∃ c, stepCount m d a o = some c ∧ (c.toNat : Int) = max 0 (roundedSteps m d a o) :=
  toCount_toNat_of_lt h

theorem stepCount_of_le (h : 2 ^ 32 ≤ roundedSteps m d a o) : stepCount m d a o = none :=
  toCount_toNat_of_le h

end

/-- Settles O29: the nearest integer to the raw count is `roundedSteps`, and CSTEPS completes with it or is refused as it
fits or not. -/
theorem cstepsCountsAndCarriesTheResidual : Obligations.CstepsCountsAndCarriesTheResidual := by
  refine ⟨⟨rfl, rfl⟩, fun s m d o raw n hb ho hraw hn => ?_⟩
  have ho' : o = carriedResidual d (s.off.get m) := by rw [ho, ite_not]; rfl
  have hraw' : raw = rawSteps m d s.operands.angle (s.off.get m) := by rw [hraw, ho', rawSteps]
  have hn' : n = roundedSteps m d s.operands.angle (s.off.get m) := by rw [isNearest_iff.mp hn, hraw', roundedSteps]
  refine ⟨fun hlt => ?_, fun hle => ?_⟩
  · obtain ⟨c, hc, hval⟩ := stepCount_of_lt (m := m) (d := d) (a := s.operands.angle) (o := s.off.get m) (by omega)
    refine ⟨_, exec_csteps_of_some hb hc, by simpa [hn'] using hval, rfl, ?_, ?_, ?_, rfl, rfl, rfl, rfl, rfl,
      rfl, rfl, rfl, rfl, rfl⟩
    · simp [nextOffset, hn', hraw']
    · simp [nextOffset]
    · simp
  · exact exec_csteps_of_none hb (stepCount_of_le (by omega))

/-- Settles O31: CSTEPS reads and writes the entry of its own motor, which an entry set for the other one leaves alone. -/
theorem cstepsIgnoresTheOtherMotor : Obligations.CstepsIgnoresTheOtherMotor := by
  intro s t m d o hb h
  obtain ⟨hbusy, -⟩ | ⟨-, c, hc, rfl⟩ := execCsteps_next h
  · simp [hb] at hbusy
  · refine ⟨by simp, ?_⟩
    refine (exec_csteps_of_some (s := s.putOffset m.other o) hb (by simpa using hc)).trans ?_
    simp [State.putOffset, State.report, PerMotor.set_comm]

/-- Settles O32: a negative count would need an angle that is not positive. -/
theorem positiveAngleGivesNoNegativeCount : Obligations.PositiveAngleGivesNoNegativeCount := by
  intro m d a o ho ha
  by_contra hn
  exact absurd (angle_nonpos_of_neg (not_le.mp hn) ho) ha.not_ge

/-- The accounting identity and the bound on the last residual, by induction on the angles: each CSTEPS is worth its angle
up to the change of the residual (41_stepper_compute.md R127). -/
theorem cstepsRun_accounting (m : Motor) (d : Dir) (angles : List Q) : ∀ o : MotorOffset, o.prevDir = d →
    |o.residual| ≤ stepRes m / 2 →
    ((cstepsRun m d o angles).2.sum : Q) * stepRes m - angles.sum = (cstepsRun m d o angles).1.residual - o.residual ∧
      |(cstepsRun m d o angles).1.residual| ≤ stepRes m / 2 := by
  induction angles with
  | nil => exact fun o _ ho => ⟨by simp [cstepsRun], ho⟩
  | cons a as ih =>
    intro o hdir _
    obtain ⟨hsum, hlast⟩ := ih (nextOffset m d a o) rfl (abs_nextOffset_residual_le m d a o)
    refine ⟨?_, hlast⟩
    rw [nextOffset_residual, carriedResidual_same hdir.symm] at hsum
    simp only [cstepsRun, List.sum_cons, Int.cast_add]
    linarith

/-- Settles O34: the error is the change of the residual, each of which is within half a step. -/
theorem sameDirectionMovesDoNotDrift : Obligations.SameDirectionMovesDoNotDrift := by
  intro m o angles ho
  obtain ⟨hid, hlast⟩ := cstepsRun_accounting m o.prevDir angles o rfl ho
  refine ⟨hid, ?_, fun h0 => ?_⟩
  · rw [hid]
    linarith [abs_sub (cstepsRun m o.prevDir o angles).1.residual o.residual]
  · rwa [hid, h0, sub_zero]

/-- The integer division of the fixed-point form is the rounding of the quotient (41_stepper_compute.md R124). -/
theorem roundNearest_div {r : Int} (hr : 0 < r) (e : Int) : roundNearest ((e : Q) / r) = fixedSteps r e := by
  have hfloor : ∀ x : Int, ⌊(x : Q) / r + 1 / 2⌋ = (2 * x + r) / (2 * r) := by
    intro x
    obtain ⟨k, rfl⟩ := Int.eq_ofNat_of_zero_le hr.le
    have hk : (k : Q) ≠ 0 := by exact_mod_cast hr.ne'
    have hdiv := Rat.floor_intCast_div_natCast (2 * x + k) (2 * k)
    push_cast at hdiv
    rw [← hdiv]
    congr 1
    push_cast
    field_simp
  have hr' : (0 : Q) < r := by exact_mod_cast hr
  rcases le_or_gt 0 e with he | he
  · have hx : 0 ≤ (e : Q) / r := div_nonneg (by exact_mod_cast he) hr'.le
    rw [roundNearest_of_nonneg hx, hfloor, fixedSteps, if_pos he]
  · have hx : (e : Q) / r < 0 := div_neg_of_neg_of_pos (by exact_mod_cast he) hr'
    have hneg := hfloor (-e)
    rw [Int.cast_neg, neg_div] at hneg
    rw [roundNearest_of_neg hx, hneg, fixedSteps, if_neg he.not_ge, mul_neg, neg_mul]

/-- Settles O35: in whole units the raw count is the quotient of the effective angle by the resolution, which the integer
division rounds. -/
theorem fixedPointCstepsIsExact : Obligations.FixedPointCstepsIsExact := by
  intro m d u res o a off hu hres hstep hoff
  set e : Int := a - (if decide (d ≠ off.prevDir) = true then -o else o) with he
  have hcarried : a * u - carriedResidual d off = e * u := by
    by_cases hd : d = off.prevDir
    · rw [carriedResidual_same hd, hoff, he, if_neg (by simpa using hd)]
      push_cast
      ring
    · rw [carriedResidual_reversed hd, hoff, he, if_pos (by simpa using hd)]
      push_cast
      ring
  have hraw : rawSteps m d (a * u) off = (e : Q) / res := by
    rw [rawSteps, hcarried, hstep, mul_div_mul_right _ _ hu.ne']
  have hcount : roundedSteps m d (a * u) off = fixedSteps res e := by
    rw [roundedSteps, hraw, roundNearest_div hres]
  refine ⟨hcount, ?_⟩
  rw [nextOffset_residual, hcount, hcarried, hstep]
  simp only [fixedCsteps, ← he]
  push_cast
  ring

end Sys2Proof.Machine
end

section
/-! PROOFS. CPERIOD and the acceptance of MOVE: the fitted period, the order of the tests, and the agreement of MOVE with
the two operations that it performs (41_stepper_compute.md section 3; 42_stepper_move.md sections 1 and 2). -/

namespace Sys2Proof.Machine

section

variable {s t : State} {m : Motor} {d : Dir} {x speed : Q} {n : Int}

/-- From 0 up the rounding reaches an integer half a unit below it (00_scope.md R12). -/
theorem le_roundNearest_iff (hx : 0 ≤ x) : n ≤ roundNearest x ↔ (n : Q) - 1 / 2 ≤ x := by
  rw [roundNearest_of_nonneg hx, Int.le_floor, sub_le_iff_le_add]

/-- The exact quotient of the period. -/
theorem period_nonneg (m : Motor) (hs : 0 < speed) : 0 ≤ nsPerS / speed * stepRes m :=
  mul_nonneg (div_nonneg (by norm_num [nsPerS]) hs.le) (stepRes_pos m).le

theorem roundedPeriod_nonneg (m : Motor) (hs : 0 < speed) : 0 ≤ roundedPeriod m speed :=
  (le_roundNearest_iff (period_nonneg m hs)).mpr (by linarith [period_nonneg m hs, (Int.cast_zero : ((0 : Int) : Q) = 0)])

theorem stepPeriod_of_lt (hs : 0 < speed) (h : roundedPeriod m speed < 2 ^ 32) :
    ∃ p, stepPeriod m speed = some p ∧ (p.toNat : Int) = roundedPeriod m speed := by
  obtain ⟨p, hp, hval⟩ := toCount_toNat_of_lt h
  exact ⟨p, hp, hval.trans (max_eq_right (roundedPeriod_nonneg m hs))⟩

theorem stepPeriod_of_le (h : 2 ^ 32 ≤ roundedPeriod m speed) : stepPeriod m speed = none :=
  toCount_toNat_of_le h

theorem stepPeriod_eq_none_iff : stepPeriod m speed = none ↔ 2 ^ 32 ≤ roundedPeriod m speed := by
  refine ⟨fun h => ?_, stepPeriod_of_le⟩
  by_contra hlt
  obtain ⟨p, hp, -⟩ := toCount_toNat_of_lt (not_le.mp hlt)
  rw [stepPeriod, hp] at h
  cases h

theorem stepPeriod_eq_zero_iff : stepPeriod m speed = some 0 ↔ roundedPeriod m speed < 1 := by
  constructor
  · intro h
    have h0 : (roundedPeriod m speed).toNat = 0 := (toCount_some h).symm
    omega
  · intro h
    rw [stepPeriod, Int.toNat_of_nonpos (by omega)]
    rfl

/-- The period overflows where the exact quotient reaches 4294967295.5 (41_stepper_compute.md R126). -/
theorem stepPeriod_eq_none_iff_quotient (hs : 0 < speed) :
    stepPeriod m speed = none ↔ 8589934591 / 2 ≤ nsPerS * stepRes m / speed := by
  rw [stepPeriod_eq_none_iff, roundedPeriod, le_roundNearest_iff (period_nonneg m hs), div_mul_eq_mul_div]
  norm_num

/-- CPERIOD of a positive speed whose period fits completes (41_stepper_compute.md R125). -/
theorem exec_cperiod_of_some {p : Count} (hb : s.seq.busy = false) (hs : 0 < s.operands.speed)
    (hp : stepPeriod m s.operands.speed = some p) : exec (.cperiod m) s = .next (s.report .ok none (some p)) := by
  simp [exec, execCperiod, hb, hs.not_ge, hp]

/-- CPERIOD whose period does not fit is refused (41_stepper_compute.md R129). -/
theorem exec_cperiod_of_none (hb : s.seq.busy = false) (hs : 0 < s.operands.speed)
    (hp : stepPeriod m s.operands.speed = none) : exec (.cperiod m) s = .refused .periodOverflow := by
  simp [exec, execCperiod, hb, hs.not_ge, hp]

/-- MOVE whose period does not fit is refused before its count is tested (42_stepper_move.md R152). -/
theorem exec_move_of_period_none (hb : s.seq.busy = false) (hs : 0 < s.operands.speed)
    (hp : stepPeriod m s.operands.speed = none) : exec (.move m d) s = .refused .periodOverflow := by
  simp [exec, execMove, hb, hs.not_ge, hp]

/-- MOVE whose period fits and whose count does not is refused (42_stepper_move.md R152). -/
theorem exec_move_of_count_none {p : Count} (hb : s.seq.busy = false) (hs : 0 < s.operands.speed)
    (hp : stepPeriod m s.operands.speed = some p) (hc : stepCount m d s.operands.angle (s.off.get m) = none) :
    exec (.move m d) s = .refused .stepCountOverflow := by
  simp [exec, execMove, hb, hs.not_ge, hp, hc]

end

/-- Settles O36: the nearest integer to the quotient is `roundedPeriod`, and CPERIOD completes with it or is refused as it
fits or not. -/
theorem cperiodGivesTheRoundedPeriod : Obligations.CperiodGivesTheRoundedPeriod := by
  refine ⟨by norm_num [nsPerS], fun s m n hb hs hn => ?_⟩
  have hn' : n = roundedPeriod m s.operands.speed := isNearest_iff.mp hn
  refine ⟨fun hlt => ?_, fun hle => exec_cperiod_of_none hb hs (stepPeriod_of_le (by omega))⟩
  obtain ⟨p, hp, hval⟩ := stepPeriod_of_lt (m := m) hs (by omega)
  exact ⟨_, exec_cperiod_of_some hb hs hp, hval.trans hn'.symm, rfl, ⟨rfl, rfl, rfl, rfl, rfl, rfl⟩,
    ⟨rfl, rfl, rfl, rfl, rfl⟩⟩

/-- Settles O37: the rounding is below 1, or reaches the limit, where the quotient is below one half, or reaches half a unit
below the limit. -/
theorem periodIsZeroOrOverflowsAtTheStatedSpeeds : Obligations.PeriodIsZeroOrOverflowsAtTheStatedSpeeds := by
  intro m speed hs
  refine ⟨?_, stepPeriod_eq_none_iff_quotient hs⟩
  have hhalf : roundedPeriod m speed < 1 ↔ nsPerS / speed * stepRes m < 1 / 2 := by
    rw [← not_le, roundedPeriod, le_roundNearest_iff (period_nonneg m hs), ← not_le]
    norm_num
  rw [stepPeriod_eq_zero_iff, hhalf, div_mul_eq_mul_div, div_lt_iff₀ hs]
  constructor <;> intro h <;> linarith

/-- Settles O40: period and count fit, so that MOVE is accepted with them. -/
theorem moveIsAcceptedWithCountAndPeriod : Obligations.MoveIsAcceptedWithCountAndPeriod := by
  intro s m d n p hb hs hp hplt hn hnlt
  have hp' : p = roundedPeriod m s.operands.speed := isNearest_iff.mp hp
  obtain ⟨cp, hcp, hpval⟩ := stepPeriod_of_lt (m := m) hs (by omega)
  obtain ⟨cn, hcn, hnval⟩ := stepCount_of_lt (m := m) (d := d) (a := s.operands.angle) (o := s.off.get m) (by omega)
  refine ⟨_, exec_move_of_some hb hs hcp hcn, rfl, rfl, rfl, hpval.trans hp'.symm, hnval.trans (by rw [hn]), rfl, ?_, ?_,
    rfl, rfl, rfl, rfl, rfl, rfl, rfl, rfl, rfl, rfl⟩
  · simp [State.accepted]
  · simp [State.accepted]

/-- Settles O41: each test is a branch of MOVE that comes before the next one, and none of them writes anything but the
results. -/
theorem moveTestsComeBeforeEveryEffect : Obligations.MoveTestsComeBeforeEveryEffect := by
  intro s m d hb
  refine ⟨fun hs => ?_, fun hs hq => ?_, fun hs hq hn => ?_⟩
  · exact ⟨_, exec_move_of_nonpos hb hs, rfl, s.raiseInvalidArgument_frame.1⟩
  · exact exec_move_of_period_none hb hs ((stepPeriod_eq_none_iff_quotient hs).mpr hq)
  · have hsome : stepPeriod m s.operands.speed ≠ none := fun hnone =>
      absurd ((stepPeriod_eq_none_iff_quotient hs).mp hnone) hq.not_ge
    obtain ⟨p, hp⟩ := Option.ne_none_iff_exists'.mp hsome
    exact exec_move_of_count_none hb hs hp (stepCount_of_le hn)

/-- Settles O42: with a positive speed each of the three completes in one way only, from the same count and period. -/
theorem moveAgreesWithSeparateOperations : Obligations.MoveAgreesWithSeparateOperations := by
  intro s a b c m d hb hs ha hbc hcc
  obtain ⟨hbusy, -⟩ | ⟨-, hle, -⟩ | ⟨-, -, p, n, hp, hn, rfl⟩ := execMove_next ha
  · simp [hb] at hbusy
  · exact absurd hle hs.not_ge
  · obtain rfl := Host.Outcome.next.inj ((exec_csteps_of_some hb hn).symm.trans hbc)
    obtain rfl := Host.Outcome.next.inj ((exec_cperiod_of_some hb hs hp).symm.trans hcc)
    exact ⟨rfl, rfl, rfl⟩

end Sys2Proof.Machine
end

section
/-! PROOFS. The actions of a move, one equation each, and the run of a whole move (42_stepper_move.md R141 to R147). -/

namespace Sys2Proof.Machine

section

variable {s : State} {now : Timestamp}

theorem State.smcTurn_of_busy (hb : s.seq.busy = true) : s.smcTurn now = s.moveAction now := if_pos hb

theorem State.moveAction_enable (hp : s.seq.point = .enable) :
    s.moveAction now = .next ((s.pinWrite s.seq.motor .en true).putSeq { s.seq with point := .direction }) := by
  simp only [State.moveAction, hp]

theorem State.moveAction_direction (hp : s.seq.point = .direction) : s.moveAction now =
    .next ((s.pinWrite s.seq.motor .dir s.seq.dir.bit).putSeq { s.seq with point := loopPoint s.seq.remaining }) := by
  simp only [State.moveAction, hp]

theorem State.moveAction_raise (hp : s.seq.point = .raise) : s.moveAction now =
    .next ((s.pinWrite s.seq.motor .step true).putSeq { s.seq with phase := .high, point := .wait }) := by
  simp only [State.moveAction, hp]

theorem State.moveAction_lower (hp : s.seq.point = .lower) : s.moveAction now =
    .next ((s.pinWrite s.seq.motor .step false).putSeq { s.seq with phase := .low, point := .wait }) := by
  simp only [State.moveAction, hp]

theorem State.moveAction_disable (hp : s.seq.point = .disable) : s.moveAction now =
    .next (((s.pinWrite s.seq.motor .en false).putSeq { s.seq with busy := false }).report .ok none none) := by
  simp only [State.moveAction, hp]

/-- The clock read that starts a pulse (42_stepper_move.md R141 (4a)). -/
theorem State.moveAction_start (hp : s.seq.point = .start) (h0 : 0 ≤ now.toInt) (h1 : s.lastTime.toInt ≤ now.toInt) :
    s.moveAction now = .next { s with lastTime := now, seq := { s.seq with t0 := now, point := .raise } } := by
  simp only [State.moveAction, hp]
  exact State.withClock_of h0 h1

/-- A clock read below the bound of its wait (42_stepper_move.md R143). -/
theorem State.moveAction_wait_below (hp : s.seq.point = .wait) (h0 : 0 ≤ now.toInt)
    (h1 : s.lastTime.toInt ≤ now.toInt) (h : now.toInt - s.seq.t0.toInt < s.seq.bound) :
    s.moveAction now = .next { s with lastTime := now } := by
  simp only [State.moveAction, hp]
  rw [State.withClock_of h0 h1, if_neg (by simpa [Seq.elapsed] using h)]

/-- A clock read that reaches the bound of its wait (42_stepper_move.md R143). -/
theorem State.moveAction_wait_reached (hp : s.seq.point = .wait) (h0 : 0 ≤ now.toInt)
    (h1 : s.lastTime.toInt ≤ now.toInt) (h : (s.seq.bound : Int) ≤ now.toInt - s.seq.t0.toInt) :
    s.moveAction now = .next { s with lastTime := now, seq := s.seq.afterWait } := by
  simp only [State.moveAction, hp]
  rw [State.withClock_of h0 h1, if_pos (by simpa [Seq.elapsed] using h)]
  rfl

/-- A clock read outside its premises (93_implementation_defined.md U8). -/
theorem State.withClock_refused (k : State → State) (h : now.toInt < 0 ∨ now.toInt < s.lastTime.toInt) :
    s.withClock now k = .refused .clockOutsidePremises := by
  have hnot : ¬ (0 ≤ now.toInt ∧ s.lastTime.toInt ≤ now.toInt) := by omega
  simp [State.withClock, State.timeNow, timeAllowed, hnot]

theorem State.moveAction_refused (hp : s.seq.point = .start ∨ s.seq.point = .wait)
    (h : now.toInt < 0 ∨ now.toInt < s.lastTime.toInt) : s.moveAction now = .refused .clockOutsidePremises := by
  obtain hp | hp := hp
  · simp only [State.moveAction, hp]
    exact State.withClock_refused _ h
  · simp only [State.moveAction, hp]
    exact State.withClock_refused _ h

end

theorem Dir.bit_eq_decide (d : Dir) : d.bit = decide (d = .ccw) := by cases d <;> rfl

theorem loopPoint_eq_disable_iff (c : Count) : loopPoint c = .disable ↔ c = 0 := by
  by_cases h : c = 0 <;> simp only [loopPoint, h, if_true, if_false, reduceCtorEq]

theorem loopPoint_eq_start_iff (c : Count) : loopPoint c = .start ↔ c ≠ 0 := by
  by_cases h : c = 0 <;> simp [loopPoint, h]

/-- Settles O43: the five equations of the actions that write a line. -/
theorem lineActionsWriteOneLineInOrder : Obligations.LineActionsWriteOneLineInOrder := by
  rintro s now q rfl hb
  simp only [State.smcTurn_of_busy hb]
  refine ⟨State.moveAction_enable, fun hp => ?_, State.moveAction_raise, State.moveAction_lower, fun hp => ?_⟩
  · exact ⟨loopPoint s.seq.remaining, loopPoint_eq_disable_iff _, loopPoint_eq_start_iff _,
      by rw [← Dir.bit_eq_decide]; exact State.moveAction_direction hp⟩
  · exact ⟨_, _, rfl, State.moveAction_disable hp⟩

/-- Settles O44: the first action of a pulse is a clock read. -/
theorem pulseStartsWithItsClockRead : Obligations.PulseStartsWithItsClockRead := by
  intro s now hb hp
  rw [State.smcTurn_of_busy hb]
  exact ⟨State.moveAction_start hp, State.moveAction_refused (.inl hp)⟩

theorem Seq.bound_eq (q : Seq) : q.bound = if q.phase = .high then q.period.toNat / 2 else q.period.toNat := by
  cases h : q.phase <;> simp [Seq.bound, h]

/-- What the end of a wait writes: the point, and after the low phase the count (42_stepper_move.md R140). -/
theorem Seq.afterWait_of_high {q : Seq} (h : q.phase = .high) : q.afterWait = { q with point := .lower } := by
  simp only [Seq.afterWait, h]

theorem Seq.afterWait_of_low {q : Seq} (h : q.phase = .low) :
    q.afterWait = { q with remaining := q.remaining - 1, point := loopPoint (q.remaining - 1) } := by
  simp only [Seq.afterWait, h]

/-- Settles O45: one clock read either leaves the move waiting or ends the wait, as the bound says. -/
theorem waitEndsAtTheFirstReadAtItsBound : Obligations.WaitEndsAtTheFirstReadAtItsBound := by
  intro s now bound hb hp hbound
  rw [← Seq.bound_eq] at hbound
  rw [State.smcTurn_of_busy hb, hbound]
  refine ⟨State.moveAction_wait_below hp, fun h0 h1 h => ?_, State.moveAction_refused (.inr hp)⟩
  obtain ⟨hbusy, hm, hd, hperiod, ht0⟩ := s.seq.afterWait_frame
  refine ⟨_, State.moveAction_wait_reached hp h0 h1 h, rfl, rfl, rfl, rfl, rfl, rfl, hbusy.trans hb, hm, hd, hperiod, ht0,
    fun hph => ?_, fun hph => ?_⟩
  · simp [Seq.afterWait_of_high hph]
  · rw [Seq.afterWait_of_low hph]
    refine ⟨rfl, ?_⟩
    simp only [loopPoint, sub_eq_zero]

/-! ## A whole move -/

/-- The two states agree in all that a move reads and in all that its end is asked about. -/
abbrev State.sameMove (s t : State) : Prop :=
  t.seq = s.seq ∧ t.lines = s.lines ∧ t.off = s.off ∧ t.pwm = s.pwm ∧ t.held = s.held ∧ t.lastTime = s.lastTime ∧
    t.script = s.script

section

variable {s t : State} {now : Timestamp} {rest : List EnvMove} {j k : Nat}

/-- A state in the course of a move: its own sequencer, lines, last clock value and script in the place of those of `s`. -/
def State.moved (s : State) (q : Seq) (l : PerMotor Lines) (last : Timestamp) (ms : List EnvMove) : State :=
  { s with seq := q, lines := l, lastTime := last, script := ms }

theorem State.sameMove_refl (s : State) : s.sameMove s := ⟨rfl, rfl, rfl, rfl, rfl, rfl, rfl⟩

theorem stepN_add (h : stepN j s = .next t) : stepN (j + k) s = stepN k t := by
  induction j generalizing s with
  | zero =>
    obtain rfl := Host.Outcome.next.inj h
    rw [Nat.zero_add]
  | succ j ih =>
    rw [Nat.succ_add_eq_add_succ, Nat.add_succ]
    cases hs : step s with
    | next u =>
      rw [stepN_succ hs] at h ⊢
      exact ih h
    | fault r => simp [stepN, hs] at h
    | refused r => simp [stepN, hs] at h

/-- A scripted turn of the SMC does what the action does from any state that agrees on the move. -/
theorem step_action {w : State} (hw : w.sameMove s) (hb : w.seq.busy = true) (hs : w.script = .smcTurn now :: rest)
    (h : w.moveAction now = .next t) : ∃ u, step s = .next u ∧ State.sameMove { t with script := rest } u := by
  obtain ⟨hseq, hlines, hoff, hpwm, hheld, hlast, hscript⟩ := hw
  rw [step_smcTurn (hseq ▸ hb) (hscript.trans hs)]
  refine State.moveAction_elim
    (motive := fun t => ∃ u, State.moveAction { s.expireResults with script := rest } now = .next u ∧
      State.sameMove { t with script := rest } u) h ?enable ?direction ?start ?raise ?waiting ?reached ?lower ?disable
  all_goals
    intro hp
    rw [← hseq] at hp
  case enable => exact ⟨_, State.moveAction_enable hp, by simp [State.sameMove, *]⟩
  case direction => exact ⟨_, State.moveAction_direction hp, by simp [State.sameMove, *]⟩
  case start => exact fun h0 h1 => ⟨_, State.moveAction_start hp h0 (hlast ▸ h1), by simp [State.sameMove, *]⟩
  case raise => exact ⟨_, State.moveAction_raise hp, by simp [State.sameMove, *]⟩
  case waiting =>
    exact fun h0 h1 hlt => ⟨_, State.moveAction_wait_below hp h0 (hlast ▸ h1) (hseq ▸ hlt), by simp [State.sameMove, *]⟩
  case reached =>
    exact fun h0 h1 hle => ⟨_, State.moveAction_wait_reached hp h0 (hlast ▸ h1) (hseq ▸ hle), by simp [State.sameMove, *]⟩
  case lower => exact ⟨_, State.moveAction_lower hp, by simp [State.sameMove, *]⟩
  case disable => exact ⟨_, State.moveAction_disable hp, by simp [State.sameMove, *]⟩

theorem timeAllowed_iff {last : Timestamp} : timeAllowed last now = true ↔ 0 ≤ now.toInt ∧ last.toInt ≤ now.toInt :=
  decide_eq_true_iff

/-- One pulse: five actions, after which the step line is low again and the pulse is counted (42_stepper_move.md R141). -/
theorem stepN_pulse {p : PulseTimes} (hb : s.seq.busy = true) (hp : s.seq.point = .start)
    (hs : s.script = p.turns ++ rest) (ht0 : timeAllowed s.lastTime p.t0 = true)
    (hthigh : timeAllowed p.t0 p.high = true) (htlow : timeAllowed p.high p.low = true)
    (hhigh : (s.seq.period.toNat / 2 : Nat) ≤ p.high.toInt - p.t0.toInt)
    (hlow : (s.seq.period.toNat : Int) ≤ p.low.toInt - p.t0.toInt) :
    ∃ t q, stepN 5 s = .next t ∧ q = { s.seq with remaining := s.seq.remaining - 1, phase := .low, t0 := p.t0,
                                                   point := loopPoint (s.seq.remaining - 1) } ∧
      (s.moved q (s.lines.set s.seq.motor { s.lines.get s.seq.motor with step := false }) p.low rest).sameMove t := by
  rw [timeAllowed_iff] at ht0 hthigh htlow
  let q : Seq := { s.seq with t0 := p.t0, point := .raise }
  let high := s.lines.set s.seq.motor ((s.lines.get s.seq.motor).put .step true)
  let low := high.set s.seq.motor ((high.get s.seq.motor).put .step false)
  obtain ⟨s1, h1, e1⟩ : ∃ u, step s = .next u ∧
      (s.moved q s.lines p.t0 (.smcTurn 0 :: .smcTurn p.high :: .smcTurn 0 :: .smcTurn p.low :: rest)).sameMove u :=
    step_action s.sameMove_refl hb hs (State.moveAction_start hp ht0.1 ht0.2)
  obtain ⟨s2, h2, e2⟩ : ∃ u, step s1 = .next u ∧
      (s.moved { q with phase := .high, point := .wait } high p.t0
        (.smcTurn p.high :: .smcTurn 0 :: .smcTurn p.low :: rest)).sameMove u :=
    step_action e1 hb rfl (State.moveAction_raise rfl)
  obtain ⟨s3, h3, e3⟩ : ∃ u, step s2 = .next u ∧
      (s.moved { q with phase := .high, point := .lower } high p.high (.smcTurn 0 :: .smcTurn p.low :: rest)).sameMove u :=
    step_action e2 hb rfl (State.moveAction_wait_reached rfl hthigh.1 hthigh.2 hhigh)
  obtain ⟨s4, h4, e4⟩ : ∃ u, step s3 = .next u ∧
      (s.moved { q with phase := .low, point := .wait } low p.high (.smcTurn p.low :: rest)).sameMove u :=
    step_action e3 hb rfl (State.moveAction_lower rfl)
  obtain ⟨s5, h5, e5⟩ : ∃ u, step s4 = .next u ∧
      (s.moved { q with remaining := s.seq.remaining - 1, phase := .low, point := loopPoint (s.seq.remaining - 1) } low
        p.low rest).sameMove u :=
    step_action e4 hb rfl (State.moveAction_wait_reached rfl htlow.1 htlow.2 hlow)
  have hlines : low = s.lines.set s.seq.motor { s.lines.get s.seq.motor with step := false } := by
    simp [low, high, Lines.put]
  exact ⟨s5, _, by simp only [stepN, h1, h2, h3, h4, h5], rfl, hlines ▸ e5⟩

/-- All the pulses: the move comes to its last action with every pulse counted and the step line low, or as it was if there
was no pulse (42_stepper_move.md R140, R147). -/
theorem stepN_pulses (pulses : List PulseTimes) : ∀ s : State, s.seq.busy = true →
    s.seq.point = loopPoint s.seq.remaining → s.seq.remaining.toNat = pulses.length →
    timesMeet s.seq.period s.lastTime pulses → s.script = pulses.flatMap PulseTimes.turns ++ rest →
    ∃ t q last, stepN (5 * pulses.length) s = .next t ∧
      q.busy = true ∧ q.motor = s.seq.motor ∧ q.remaining = 0 ∧ q.point = .disable ∧
      (s.moved q (s.lines.set s.seq.motor
        { s.lines.get s.seq.motor with step := if pulses = [] then (s.lines.get s.seq.motor).step else false })
        last rest).sameMove t := by
  induction pulses with
  | nil =>
    intro s hb hp hrem _ hs
    have h0 : s.seq.remaining = 0 := BitVec.eq_of_toNat_eq hrem
    refine ⟨s, s.seq, s.lastTime, rfl, hb, rfl, h0, hp.trans ((loopPoint_eq_disable_iff _).mpr h0), ?_⟩
    exact ⟨rfl, (PerMotor.set_get _ _).symm, rfl, rfl, rfl, rfl, hs⟩
  | cons p ps ih =>
    intro s hb hp hrem ht hs
    obtain ⟨ht0, hthigh, htlow, hhigh, hlow, ht⟩ := ht
    have hne : s.seq.remaining ≠ 0 := fun h0 => by simp [h0] at hrem
    have hrem' : (s.seq.remaining - 1).toNat = ps.length := by
      rw [List.length_cons] at hrem
      bv_omega
    obtain ⟨u, q', hu, rfl, hseq, hlines, hoff, hpwm, hheld, hlast, hscript⟩ :=
      stepN_pulse hb (hp.trans ((loopPoint_eq_start_iff _).mpr hne)) (hs.trans (List.append_assoc _ _ _)) ht0 hthigh htlow
        hhigh hlow
    simp only [State.moved] at hseq hlines hoff hpwm hheld hlast hscript
    obtain ⟨t, q, last, hrun, hqb, hqm, hqr, hqp, hseq', hlines', hoff', hpwm', hheld', hlast', hscript'⟩ :=
      ih u (by rwa [hseq]) (by rw [hseq]) (by rwa [hseq]) (by rwa [hseq, hlast]) hscript
    refine ⟨t, q, last, ?_, hqb, by rw [hqm, hseq], hqr, hqp, hseq', hlines'.trans ?_, hoff'.trans hoff,
      hpwm'.trans hpwm, hheld'.trans hheld, hlast', hscript'⟩
    · rw [List.length_cons, Nat.mul_succ, Nat.add_comm, stepN_add hu, hrun]
    · simp [State.moved, hseq, hlines]

end

/-- Settles O46: two writes bring the move to the head of its loop, `stepN_pulses` to its last action, and that one ends
it. -/
theorem moveRunsToItsEnd : Obligations.MoveRunsToItsEnd := by
  intro s pulses rest hb hp hrem ht hs
  let m := s.seq.motor
  let enabled := s.lines.set m ((s.lines.get m).put .en true)
  let headed := enabled.set m ((enabled.get m).put .dir s.seq.dir.bit)
  obtain ⟨s1, h1, e1⟩ : ∃ u, step s = .next u ∧ (s.moved { s.seq with point := .direction } enabled s.lastTime
      (.smcTurn 0 :: (pulses.flatMap PulseTimes.turns ++ .smcTurn 0 :: rest))).sameMove u :=
    step_action s.sameMove_refl hb hs (State.moveAction_enable hp)
  obtain ⟨s2, h2, e2⟩ : ∃ u, step s1 = .next u ∧ (s.moved { s.seq with point := loopPoint s.seq.remaining } headed
      s.lastTime (pulses.flatMap PulseTimes.turns ++ .smcTurn 0 :: rest)).sameMove u :=
    step_action e1 hb rfl (State.moveAction_direction rfl)
  obtain ⟨hseq, hlines, hoff, hpwm, hheld, hlast, hscript⟩ := e2
  simp only [State.moved] at hseq hlines hoff hpwm hheld hlast hscript
  obtain ⟨u, q, last, hrun, hqb, hqm, hqr, hqp, eu⟩ := stepN_pulses pulses s2 (by rwa [hseq]) (by rw [hseq])
    (by rwa [hseq]) (by rwa [hseq, hlast]) hscript
  obtain ⟨huseq, hulines, huoff, hupwm, huheld, -, huscript⟩ := eu
  simp only [State.moved, hseq, hlines, hoff, hpwm, hheld] at huseq hulines huoff hupwm huheld huscript hqm
  have h3 := (step_smcTurn (huseq ▸ hqb) huscript).trans (State.moveAction_disable (huseq ▸ hqp))
  have hall : stepN (5 * pulses.length + 3) s = stepN 1 u := by
    rw [show 5 * pulses.length + 3 = 5 * pulses.length + 1 + 1 + 1 by omega, stepN_succ h1, stepN_succ h2, stepN_add hrun]
  refine ⟨_, hall.trans (stepN_succ h3), rfl, by simpa [huseq] using hqr, rfl, rfl, ?_⟩
  simp [huseq, hulines, huoff, hupwm, huheld, hqm, enabled, headed, m, Lines.put]

end Sys2Proof.Machine
end

section
/-! PROOFS. The blocks are independent: what the DBE and the BRT write, the SMC neither reads nor writes, and the other way
round (20_memory.md R60). -/

namespace Sys2Proof.Machine

/-- The fields that the operations of the DBE and the BRT write, set to given values. -/
def State.withSinks (s : State) (x : List Dbe) (y : Pwm) : State := { s with dbe := x, pwm := y }

/-- The two states agree in what the operations of the DBE and the BRT read and write. -/
abbrev State.sameSinks (s t : State) : Prop :=
  t.build = s.build ∧ t.dbe = s.dbe ∧ t.pwm = s.pwm ∧ t.target = s.target ∧ t.operands = s.operands

section

variable {s a b u : State} {i : Instr} {r r' : Bool} {now : Timestamp} {k : Nat}

/-- SAMPLE sets the units by what it reads alone (10_state.md R20). -/
theorem exec_sample_local (h : exec (.sample r) s = .next a) : ∃ x, ∀ u : State, u.build = s.build → u.dbe = s.dbe →
    u.target = s.target → exec (.sample r) u = .next { u with dbe := x } := by
  obtain ⟨d, hd, -⟩ := exec_sample_writes h
  refine ⟨s.dbe.set s.target (d.sample s.build r), fun u hbuild hdbe htarget => ?_⟩
  rw [exec_sample_of (s := u) (d := d) (by rw [hdbe, htarget, hd]), State.putDbe, hbuild, hdbe, htarget]

/-- SETLVL sets the PWM sink by its level alone (43_brightness.md R160). -/
theorem exec_setlvl_local (h : exec .setlvl s = .next a) :
    ∃ y, ∀ u : State, u.operands = s.operands → exec .setlvl u = .next { u with pwm := y } := by
  have hle : s.operands.percent ≤ 100 := by
    by_contra hgt
    rw [exec_setlvl_of_gt (not_le.mp hgt)] at h
    cases h
  refine ⟨if s.operands.percent = 0 then { enabled := false, duty := 0 }
    else { enabled := true, duty := dutyOf s.operands.percent }, fun u hu => ?_⟩
  rw [exec_setlvl_of (s := u) (by rwa [hu]), hu]

/-- SAMPLE and SETLVL set the units and the PWM sink by what they read alone. -/
theorem exec_sinks (hi : (∃ r, i = .sample r) ∨ i = .setlvl) (h : exec i s = .next a) :
    ∃ x y, ∀ u : State, s.sameSinks u → exec i u = .next (u.withSinks x y) := by
  obtain ⟨r, rfl⟩ | rfl := hi
  · obtain ⟨x, hx⟩ := exec_sample_local h
    refine ⟨x, s.pwm, fun u ⟨hbuild, hdbe, hpwm, htarget, _⟩ => ?_⟩
    rw [hx u hbuild hdbe htarget, State.withSinks, ← hpwm]
  · obtain ⟨y, hy⟩ := exec_setlvl_local h
    refine ⟨s.dbe, y, fun u ⟨_, hdbe, _, _, hops⟩ => ?_⟩
    rw [hy u hops, State.withSinks, ← hdbe]

/-- An operation of the SMC does the same with other units and another PWM state. -/
theorem exec_withSinks (hi : i.wellFormedAt .smc = true) (h : exec i s = .next b) (x : List Dbe) (y : Pwm) :
    exec i (s.withSinks x y) = .next (b.withSinks x y) := by
  by_cases hb : s.seq.busy = true
  · obtain rfl := Host.Outcome.next.inj ((exec_of_busy hb hi).symm.trans h)
    exact exec_of_busy hb hi
  · cases i with
    | sample r => cases hi
    | setlvl => cases hi
    | csteps m d =>
      obtain ⟨hbusy, -⟩ | ⟨hidle, c, hc, rfl⟩ := execCsteps_next h
      · exact absurd hbusy hb
      · exact exec_csteps_of_some (s := s.withSinks x y) hidle hc
    | cperiod m =>
      obtain ⟨hbusy, -⟩ | ⟨hidle, hs, rfl⟩ | ⟨hidle, hs, p, hp, rfl⟩ := execCperiod_next h
      · exact absurd hbusy hb
      · exact exec_cperiod_of_nonpos (s := s.withSinks x y) hidle hs
      · exact exec_cperiod_of_some (s := s.withSinks x y) hidle hs hp
    | move m d =>
      obtain ⟨hbusy, -⟩ | ⟨hidle, hs, rfl⟩ | ⟨hidle, hs, p, c, hp, hc, rfl⟩ := execMove_next h
      · exact absurd hbusy hb
      · exact exec_move_of_nonpos (s := s.withSinks x y) hidle hs
      · exact exec_move_of_some (s := s.withSinks x y) hidle hs hp hc

/-- So does a turn of the SMC. -/
theorem State.smcTurn_withSinks (h : s.smcTurn now = .next b) (x : List Dbe) (y : Pwm) :
    (s.withSinks x y).smcTurn now = .next (b.withSinks x y) := by
  obtain ⟨hidle, rfl⟩ | ⟨hb, ha⟩ := State.smcTurn_next h
  · exact State.smcTurn_of_idle (s := b.withSinks x y) hidle
  · rw [State.smcTurn_of_busy (s := s.withSinks x y) hb]
    refine State.moveAction_elim (motive := fun b => (s.withSinks x y).moveAction now = .next (b.withSinks x y)) ha
      ?enable ?direction ?start ?raise ?waiting ?reached ?lower ?disable
    case enable => exact State.moveAction_enable (s := s.withSinks x y)
    case direction => exact State.moveAction_direction (s := s.withSinks x y)
    case start => exact State.moveAction_start (s := s.withSinks x y)
    case raise => exact State.moveAction_raise (s := s.withSinks x y)
    case waiting => exact State.moveAction_wait_below (s := s.withSinks x y)
    case reached => exact State.moveAction_wait_reached (s := s.withSinks x y)
    case lower => exact State.moveAction_lower (s := s.withSinks x y)
    case disable => exact State.moveAction_disable (s := s.withSinks x y)

/-- What leaves the sinks alone and does the same with other ones commutes with SAMPLE and with SETLVL. -/
theorem exec_sinks_commute {f : State → Host.Outcome State Fault Refusal} (hi : (∃ r, i = .sample r) ∨ i = .setlvl)
    (hother : ∀ x y, f (s.withSinks x y) = .next (b.withSinks x y)) (hsame : s.sameSinks b) (ha : exec i s = .next a) :
    ∃ t, f a = .next t ∧ exec i b = .next t := by
  obtain ⟨x, y, hxy⟩ := exec_sinks hi ha
  obtain rfl := Host.Outcome.next.inj ((hxy s ⟨rfl, rfl, rfl, rfl, rfl⟩).symm.trans ha)
  exact ⟨_, hother x y, hxy b hsame⟩

/-- SAMPLE and SETLVL commute: neither reads what the other one writes. -/
theorem exec_sample_setlvl_commute (ha : exec (.sample r) s = .next a) (hb : exec .setlvl s = .next b) :
    ∃ t, exec .setlvl a = .next t ∧ exec (.sample r) b = .next t := by
  obtain ⟨x, hx⟩ := exec_sample_local ha
  obtain ⟨y, hy⟩ := exec_setlvl_local hb
  obtain rfl := Host.Outcome.next.inj ((hx s rfl rfl rfl).symm.trans ha)
  obtain rfl := Host.Outcome.next.inj ((hy s rfl).symm.trans hb)
  exact ⟨s.withSinks x y, hy _ rfl, hx _ rfl rfl rfl⟩

/-- SAMPLEs of two different units commute (10_state.md R20). -/
theorem exec_sample_sample_commute (ha : exec (.sample r) s = .next a) (hk : k ≠ s.target)
    (hb : exec (.sample r') { s with target := k } = .next b) :
    ∃ t : State, exec (.sample r') { a with target := k } = .next t ∧
      exec (.sample r) { b with target := s.target } = .next { t with target := s.target } := by
  obtain ⟨d, hd, rfl⟩ := exec_sample_writes ha
  obtain ⟨e, he, rfl⟩ := exec_sample_writes hb
  have he' : (s.dbe.set s.target (d.sample s.build r))[k]? = some e := (List.getElem?_set_ne hk.symm).trans he
  have hd' : (s.dbe.set k (e.sample s.build r'))[s.target]? = some d := (List.getElem?_set_ne hk).trans hd
  refine ⟨_, exec_sample_of he' r', ?_⟩
  rw [exec_sample_of hd' r]
  simp only [State.putDbe, List.set_comm _ _ hk]

theorem exec_smc_sameSinks (hi : i.wellFormedAt .smc = true) (h : exec i s = .next b) : s.sameSinks b := by
  obtain ⟨o, q, rs, k, c, rfl⟩ := exec_smc_writes hi h
  exact ⟨rfl, rfl, rfl, rfl, rfl⟩

theorem State.smcTurn_sameSinks (h : s.smcTurn now = .next b) : s.sameSinks b := by
  obtain ⟨-, rfl⟩ | ⟨-, ha⟩ := State.smcTurn_next h
  · exact ⟨rfl, rfl, rfl, rfl, rfl⟩
  · obtain ⟨l, q, last, rs, k, rfl⟩ := State.moveAction_writes ha
    exact ⟨rfl, rfl, rfl, rfl, rfl⟩

/-- An operation is SAMPLE, SETLVL or one of the SMC's (30_encoding.md R77). -/
theorem block_cases (i : Instr) : (∃ r, i = .sample r) ∨ i = .setlvl ∨ i.wellFormedAt .smc = true := by
  cases i with
  | sample r => exact .inl ⟨r, rfl⟩
  | setlvl => exact .inr (.inl rfl)
  | csteps m d | cperiod m | move m d => exact .inr (.inr rfl)

end

/-- Settles O54: the SMC leaves the sinks alone and does not read them, SAMPLE and SETLVL write different ones, SAMPLEs of
two units set different elements, and SETLVL twice sets the sink to the same level twice. -/
theorem independentBlocksCommute : Obligations.IndependentBlocksCommute := by
  refine ⟨fun s a b r ha => ⟨fun i hi hb => ?_, fun r' k hk hb => exec_sample_sample_commute ha hk hb⟩,
    fun s a b i ha hb => ?_, fun s a b i now hi ha hb => ?_⟩
  · obtain ⟨r', rfl⟩ | rfl | hsmc := block_cases i
    · exact absurd rfl (hi r')
    · exact exec_sample_setlvl_commute ha hb
    · exact exec_sinks_commute (.inl ⟨r, rfl⟩) (exec_withSinks hsmc hb) (exec_smc_sameSinks hsmc hb) ha
  · obtain ⟨r, rfl⟩ | rfl | hsmc := block_cases i
    · obtain ⟨t, ht, ht'⟩ := exec_sample_setlvl_commute hb ha
      exact ⟨t, ht', ht⟩
    · obtain ⟨y, hy⟩ := exec_setlvl_local ha
      obtain rfl := Host.Outcome.next.inj (ha.symm.trans hb)
      obtain rfl := Host.Outcome.next.inj ((hy s rfl).symm.trans ha)
      exact ⟨_, hy _ rfl, hy _ rfl⟩
    · exact exec_sinks_commute (.inr rfl) (exec_withSinks hsmc hb) (exec_smc_sameSinks hsmc hb) ha
  · exact exec_sinks_commute (f := fun u => u.smcTurn now) hi (State.smcTurn_withSinks hb) (State.smcTurn_sameSinks hb) ha

end Sys2Proof.Machine
end
